-- ==== Sys2Proof/Word.lean ====
section
/-! DEFINITION. The two bit-vector widths of the block: the byte (R3, every datum) and the command word (R44). -/

namespace Sys2Proof

/-- R3: every datum the block handles is an 8-bit unsigned value. R11: bit 0 is the least significant bit. -/
abbrev Byte := BitVec 8

/-- R44: a command is one 32-bit word, the value of the `cmd` port at the acceptance edge. -/
abbrev Word := BitVec 32

end Sys2Proof
end

