-- ==== Sys2Proof/Config.lean ====
section
/-! DEFINITION. What a build of the block fixes and the spec leaves open (POLY, SEED, LATENCY), and the free values:
what a register holds where the spec gives it no value. None of the constants has a body, so nothing can be proved of its
value. -/

namespace Sys2Proof

/-- The build's choice among the 255 admissible polynomials (92_eei_decisions.md D1, OPEN). Log entry 1. -/
opaque Config.polyIndex : Fin 255

/-- R5, R6: the generator polynomial POLY, bit i the coefficient of x^i, x^8 implicit. The source does not give it: it
is any byte but 0x00, `polyIndex + 1`. DESIGN CHOICE of form only (log entry 1). -/
def Config.poly : Byte := BitVec.ofNat 8 (Config.polyIndex.val + 1)

/-- R7: the wrappers' seed SEED, any byte (92_eei_decisions.md D2, OPEN). Log entry 1. -/
opaque Config.seed : Byte

/-- R113: LATENCY, an open parameter of the build that no rule reads; no definition of the model reads it. Log entry 7. -/
opaque Config.latency : Nat

/-- R90, R26 (U6, U7): what R holds after a fault response or a reset, draw by draw. Log entries 2 and 3. -/
opaque Config.freeR : Nat → Byte

/-- R26, U12: what the flip-flop behind `rsp_fault` holds while no response is held. Log entries 2 and 3. -/
opaque Config.freeRspFault : Nat → Bool

/-- R26: OPR after a reset. Log entries 2 and 3. -/
opaque Config.freeOpr : Nat → BitVec 3

/-- R26: working register A after a reset. Log entries 2 and 3. -/
opaque Config.freeA : Nat → Byte

/-- R26: working register B after a reset. Log entries 2 and 3. -/
opaque Config.freeB : Nat → Byte

/-- R26: working register C after a reset. Log entries 2 and 3. -/
opaque Config.freeC : Nat → Byte

/-- R26: working register D after a reset. Log entries 2 and 3. -/
opaque Config.freeD : Nat → Byte

/-- R26: bit counter K after a reset. Log entries 2 and 3. -/
opaque Config.freeK : Nat → BitVec 4

/-- R26: byte index I (and with it `buf_idx`) after a reset. Log entries 2 and 3. -/
opaque Config.freeI : Nat → Byte

end Sys2Proof
end

