-- ==== Sys2Proof/Machine/Datapath.lean ====
section
/-! DEFINITION. The datapath: the polynomial shift register, the reference byte step, the table and the fast byte step,
the fold. Each takes the polynomial as an argument, so that a law holds for every POLY and a number at a named one. -/

namespace Sys2Proof.Machine

/-- R4, R5: the one polynomial every command uses. -/
def poly : Byte := Config.poly

/-- R7, R81: the seed both wrappers use. -/
def seed : Byte := Config.seed

/-- R58: one clock of the polynomial shift register, most significant bit out, the data bit into the feedback. -/
def shift1 (poly r : Byte) (b : Bool) : Byte :=
  if r.getLsbD 7 ^^ b then (r <<< 1) ^^^ poly else r <<< 1

/-- R59: the eight shifts of a byte step, in the order of the data byte's bits from 7 down to 0. -/
def refStep (poly c d : Byte) : Byte :=
  [7, 6, 5, 4, 3, 2, 1, 0].foldl (fun r j => shift1 poly r (d.getLsbD j)) c

/-- R60: the byte-parallel form: eight shifts with no data bit. -/
def par8 (poly v : Byte) : Byte :=
  Nat.repeat (fun u => if u.getLsbD 7 then (u <<< 1) ^^^ poly else u <<< 1) 8 v

/-- R63: the constant table, entry i for i = 0..255, made from the polynomial alone. -/
def table (poly : Byte) : List Byte := (List.range 256).map fun i => refStep poly 0 (BitVec.ofNat 8 i)

/-- R63: the table has 256 entries, so every byte is an index of it. -/
theorem table_length (poly : Byte) : (table poly).length = 256 := by simp [table]

/-- R31, R64: the entry of the table at an index. -/
def tableAt (poly i : Byte) : Byte :=
  (table poly)[i.toNat]'(by rw [table_length]; exact i.isLt)

/-- R64: one XOR of register and data, one table lookup. -/
def fastStep (poly c d : Byte) : Byte := tableAt poly (c ^^^ d)

/-- R66, R105: the contract of the whole block at a polynomial: the fast step is the reference step, on every pair of
operand bytes. A statement to prove about the two definitions, not an assumption. -/
def stepsAgree (poly : Byte) : Prop := ∀ c d : Byte, fastStep poly c d = refStep poly c d

/-- R72: the register after folding in the first `n` bytes of `buf`, byte 0 first. -/
def fold (poly c : Byte) (buf : List Byte) (n : Nat) : Byte := (buf.take n).foldl (fastStep poly) c

end Sys2Proof.Machine
end

