-- ==== Sys2Proof/Machine/State.lean ====
section
/-! DEFINITION. The state of the block: the engine's registers, the host's input pins and buffer, and the model's own two
counters; the reasons a step can stop; the state after reset. Plain data. -/

namespace Sys2Proof.Machine

/-- The host's buffer BUF (R28) as (index, byte) cells. What an unlisted index reads as: no byte, the host never answers
a request for it (R29). Log entry 5. -/
abbrev Memory := List Host.Cell

/-- The canonical form of a buffer: its cells are those of indices 0, 1, ..., len-1, in that order, so that indices
strictly rise, none repeats and none is missing, and equal buffers are equal lists (R28: index 0 is the first byte). -/
abbrev Memory.wf (m : Memory) : Prop := m.map Prod.fst = List.range m.length

/-- Why a step stops. -/
inductive Fault where
  /-- R87: the engine is busy, has asked for a buffer index the host does not hold, and reset is not asserted: no engine
  transition is enabled and the state is not final. Raised by `step`, never by a command's meaning. SAFE: the model stops
  where the hardware waits without limit (log entry 4). -/
  | stuck
deriving DecidableEq, Repr

/-- Why a meaning or a reading is refused. -/
inductive Refusal where
  /-- A command with no meaning in this model: raised by no arm of `exec`, every command has its meaning. SAFE. -/
  | notModelled (mnemonic : String)
  /-- R27: the host reads an output that holds no defined value. Raised by the readings of Machine/Ports.lean, never by
  `step`. SAFE: the hardware's port carries some value there. -/
  | noDefinedValue
deriving DecidableEq, Repr

/-- Everything the spec gives the block. -/
structure State where
  /-- R13: the CRC register R; `rsp_crc` is a view of it (R19). -/
  r : Byte
  /-- R16, R25: a command is in progress. -/
  busy : Bool
  /-- R16, R22: a response is held. -/
  rspValid : Bool
  /-- R16, R85: the fault bit of the held response; no meaning while none is held. -/
  rspFault : Bool
  /-- R19, R21: the engine asks for one buffer byte, the one at index `i` (R18: I is read as `buf_idx`). -/
  bufReq : Bool
  /-- R18: OPR, the opcode of the command in progress. -/
  opr : BitVec 3
  /-- R18: A, the first operand byte. -/
  a : Byte
  /-- R18: B, the second operand byte; the count of a fold. -/
  b : Byte
  /-- R18: C, the third operand byte. -/
  c : Byte
  /-- R18: D, the data byte being shifted in, most significant bit next. -/
  d : Byte
  /-- R15, R18: K, the shifts remaining in a bit-serial step. -/
  k : BitVec 4
  /-- R15, R18: I, the index of the next buffer byte. -/
  i : Byte
  /-- R19, R99: the host's `rst` pin at the coming edge. -/
  rst : Bool
  /-- R19, R20: the host's `cmd_valid` pin at the coming edge. -/
  cmdValid : Bool
  /-- R19, R44: the host's `cmd` pins at the coming edge. -/
  cmd : Word
  /-- R28, R29: the host's buffer. -/
  buf : Memory
  /-- 92_eei_decisions.md D20: the model's own fault record, how many IllegalCommand faults were taken; never cleared. -/
  faults : Nat
  /-- The model's own: the index of the next free value (log entry 2). -/
  draws : Nat
deriving DecidableEq, Repr

/-- R26, R100: the state right after reset, `rst` released and nothing offered yet. What R26 calls unspecified holds the
free values of draw 0 (log entry 3); the pins and the buffer are the host's (log entries 5 and 6). -/
def State.reset : State where
  r := Config.freeR 0
  busy := false
  rspValid := false
  rspFault := Config.freeRspFault 0
  bufReq := false
  opr := Config.freeOpr 0
  a := Config.freeA 0
  b := Config.freeB 0
  c := Config.freeC 0
  d := Config.freeD 0
  k := Config.freeK 0
  i := Config.freeI 0
  rst := false
  cmdValid := false
  cmd := 0
  buf := []
  faults := 0
  draws := 1

end Sys2Proof.Machine
end

