-- ==== Sys2Proof/Machine/Flags.lean ====
section
/-! DEFINITION. The status bits (R16): what accepting a command and giving a response do to `busy`, `rsp_valid` and
`rsp_fault`. The block has no other flag. -/

namespace Sys2Proof.Machine

/-- R20: at acceptance `busy` <- 1 and `rsp_valid` <- 0. The fault bit means nothing until the next response (U12): a
free value. -/
def markAccepted (s : State) : State :=
  { s with
    busy := true
    rspValid := false
    rspFault := Config.freeRspFault s.draws
    draws := s.draws + 1 }

/-- R22, R90: with the response `rsp_fault` <- `fault`, `rsp_valid` <- 1 and `busy` <- 0. -/
def markResponded (fault : Bool) (s : State) : State :=
  { s with busy := false, rspValid := true, rspFault := fault }

/-- R16, R101 (90_conflicts.md C11): `cmd_ready` is 1 exactly when `busy` = 0 and `rst` = 0. -/
def cmdReady (s : State) : Bool := !s.busy && !s.rst

end Sys2Proof.Machine
end

