-- ==== Sys2Proof/Syntax.lean ====
section
/-! DEFINITION. The five commands (R2, R47), one constructor per row of the opcode table, and their textual form (R55). -/

namespace Sys2Proof

/-- R2, R47: the five operations with the operands each takes from the command word, in the source's argument order
(R48). An operand byte a command does not use is no part of it (R49). -/
inductive Instr where
  /-- OP 0, R61: one byte through the bit-serial shift register. -/
  | referenceStep (crc data : Byte)
  /-- OP 1, R65: one byte through the table. -/
  | fastStep (crc data : Byte)
  /-- OP 2, R74: the first `n` bytes of the host's buffer; the buffer is not in the word (R46). -/
  | foldN (crc n : Byte)
  /-- OP 3, R78: two bytes from SEED. -/
  | combine2 (data1 data2 : Byte)
  /-- OP 4, R79: three bytes from SEED. -/
  | combine3 (data1 data2 data3 : Byte)
deriving DecidableEq, Repr

/-- R55, D27: the mnemonics are the source's operation names. -/
def Instr.mnemonic : Instr → String
  | .referenceStep _ _ => "reference_step"
  | .fastStep _ _ => "fast_step"
  | .foldN _ _ => "fold_n"
  | .combine2 _ _ => "combine_2"
  | .combine3 _ _ _ => "combine_3"

/-- One hexadecimal digit, capitals as spec/ writes them. -/
def hexDigit (n : Nat) : Char :=
  if n < 10 then Char.ofNat (48 + n) else Char.ofNat (55 + n)

/-- R55: an operand value is written as a two-digit hexadecimal byte. -/
def hexByte (b : Byte) : String :=
  "0x" ++ String.ofList [hexDigit (b.toNat / 16), hexDigit (b.toNat % 16)]

/-- R55: a buffer is written as a bracketed list, byte 0 first. -/
def bufferText (buffer : List Byte) : String :=
  "[" ++ String.intercalate ", " (buffer.map hexByte) ++ "]"

/-- R55: the mnemonic, then the operands in parentheses. `buffer` is what the host will answer on the buffer port: only
`fold_n` shows it. -/
def Instr.text (buffer : List Byte) (i : Instr) : String :=
  i.mnemonic ++ "(" ++ String.intercalate ", " (operands i) ++ ")"
where
  operands : Instr → List String
    | .referenceStep crc data => [hexByte crc, hexByte data]
    | .fastStep crc data => [hexByte crc, hexByte data]
    | .foldN crc n => [hexByte crc, bufferText buffer, toString n.toNat]
    | .combine2 data1 data2 => [hexByte data1, hexByte data2]
    | .combine3 data1 data2 data3 => [hexByte data1, hexByte data2, hexByte data3]

end Sys2Proof
end

