-- ==== Sys2Proof/Decode.lean ====
section
/-! DEFINITION. The command word CMD32: its fields (R45), Decode, total on all words (R53), and Encode, the canonical
word (R54). -/

namespace Sys2Proof

/-- R45: bits 2:0, the opcode. -/
def fieldOP (w : Word) : BitVec 3 := w.extractLsb' 0 3

/-- R45: bits 7:3, reserved, must be zero. -/
def fieldZ (w : Word) : BitVec 5 := w.extractLsb' 3 5

/-- R45: bits 15:8, the first operand byte. -/
def fieldA (w : Word) : Byte := w.extractLsb' 8 8

/-- R45: bits 23:16, the second operand byte. -/
def fieldB (w : Word) : Byte := w.extractLsb' 16 8

/-- R45: bits 31:24, the third operand byte. -/
def fieldC (w : Word) : Byte := w.extractLsb' 24 8

/-- R47: the word under the opcode table's mask 0x000000FF. -/
def lowByte (w : Word) : Nat := (w &&& 0x000000FF#32).toNat

/-- R45: the word made of its five fields: `cmd = C·2^24 + B·2^16 + A·2^8 + Z·2^3 + OP`. -/
def wordOfFields (c b a : Byte) (z : BitVec 5) (op : BitVec 3) : Word :=
  BitVec.ofNat 32 (c.toNat * 2 ^ 24 + b.toNat * 2 ^ 16 + a.toNat * 2 ^ 8 + z.toNat * 2 ^ 3 + op.toNat)

/-- R35: the listings give a word as four bytes, bits 7:0 first; a convention of the listings, not of the block. -/
def wordOfListing (b0 b1 b2 b3 : Byte) : Word :=
  BitVec.ofNat 32 (b3.toNat * 2 ^ 24 + b2.toNat * 2 ^ 16 + b1.toNat * 2 ^ 8 + b0.toNat)

/-- R50: why a command word is illegal. -/
inductive IllegalCause where
  /-- The reserved field Z is not zero. -/
  | reservedField (z : BitVec 5)
  /-- Z is zero and OP is 5, 6 or 7. -/
  | reservedOpcode (op : BitVec 3)
deriving DecidableEq, Repr

/-- What a command word is: a command, or illegal for a named cause. -/
inductive Decoded where
  | command (i : Instr)
  | illegal (why : IllegalCause)
deriving DecidableEq, Repr

/-- R53: decoding is total on all 2^32 words; the field C is not looked at where the command does not use it (R49). -/
def decode (w : Word) : Decoded :=
  if fieldZ w = 0 then
    match (fieldOP w).toNat with
    | 0 => .command (.referenceStep (fieldA w) (fieldB w))
    | 1 => .command (.fastStep (fieldA w) (fieldB w))
    | 2 => .command (.foldN (fieldA w) (fieldB w))
    | 3 => .command (.combine2 (fieldA w) (fieldB w))
    | 4 => .command (.combine3 (fieldA w) (fieldB w) (fieldC w))
    | _ => .illegal (.reservedOpcode (fieldOP w))
  else .illegal (.reservedField (fieldZ w))

/-- R47: the opcode numbers. -/
def Instr.opcode : Instr → BitVec 3
  | .referenceStep _ _ => 0
  | .fastStep _ _ => 1
  | .foldN _ _ => 2
  | .combine2 _ _ => 3
  | .combine3 _ _ _ => 4

/-- R54: the canonical word sets every unused field to zero. -/
def encode : Instr → Word
  | .referenceStep crc data => wordOfFields 0 data crc 0 0
  | .fastStep crc data => wordOfFields 0 data crc 0 1
  | .foldN crc n => wordOfFields 0 n crc 0 2
  | .combine2 data1 data2 => wordOfFields 0 data2 data1 0 3
  | .combine3 data1 data2 data3 => wordOfFields data3 data2 data1 0 4

/-- The word whose low `nbits` bits are those of `w`, every bit above zero, at the opcode table's bit numbers: the table
numbers the bits of the one 32-bit word as R45 does. Log entry 11. -/
def tableWord (nbits w : Nat) : Word := BitVec.ofNat 32 (w % 2 ^ nbits)

/-- The command that `decode` reads from the bits `w` of an opcode-table row. -/
def decodeTableWord (nbits w : Nat) : Option Instr :=
  match decode (tableWord nbits w) with
  | .command i => some i
  | .illegal _ => none

end Sys2Proof
end

