-- ==== Sys2Proof/Machine/Operands.lean ====
section
/-! DEFINITION. The operand forms: each operand is one byte of the command word as it stands (R46), latched at acceptance
(R18). -/

namespace Sys2Proof.Machine

/-- R18: the opcode and the three operand bytes are written at acceptance. -/
def latch (op : BitVec 3) (a b c : Byte) (s : State) : State :=
  { s with opr := op, a := a, b := b, c := c }

/-- R49: the byte in field C of the offered word, for a command that does not use C: latched, and read by nothing.
Log entry 10. -/
def unusedC (s : State) : Byte := fieldC s.cmd

end Sys2Proof.Machine
end

