-- ==== Sys2Proof/Machine/Ops.lean ====
section
/-! DEFINITION. The named operations over the buffer and the registers: MemRead, acceptance, response, the fault entry,
the wait for a buffer byte, reset. -/

namespace Sys2Proof.Machine

/-- The byte a buffer holds at an index; none where it holds no byte there. -/
def Memory.read : Memory → Nat → Option Byte
  | [], _ => none
  | (j, v) :: m, i => if i = j then some v else Memory.read m i

/-- R28: `len`, how many bytes the host's buffer holds. -/
def Memory.len (m : Memory) : Nat := m.length

/-- R28: the bytes of a buffer in index order. -/
def Memory.bytes (m : Memory) : List Byte := m.map Prod.snd

/-- The cells of a byte sequence from a given index on. -/
def Memory.cellsFrom : Nat → List Byte → Memory
  | _, [] => []
  | i, v :: vs => (i, v) :: Memory.cellsFrom (i + 1) vs

/-- R28: the buffer that holds a byte sequence, byte 0 first. -/
def Memory.ofBytes (vs : List Byte) : Memory := Memory.cellsFrom 0 vs

/-- R29: `MemRead(i, 1)`, the one memory primitive: BUF[i] where i < len, no result where i ≥ len. It changes nothing. -/
def memRead (s : State) (i : Byte) : Option Byte := Memory.read s.buf i.toNat

/-- R13: `R <- v`. -/
def writeR (v : Byte) (s : State) : State := { s with r := v }

/-- R59: the two registers of a bit-serial step: `D <- d; K <- k`. -/
def setShifter (d : Byte) (k : BitVec 4) (s : State) : State := { s with d := d, k := k }

/-- R21, R73: the two registers of a fold's reads: `I <- i; buf_req <- req`. -/
def setIndex (i : Byte) (req : Bool) (s : State) : State := { s with i := i, bufReq := req }

/-- R20: a command is accepted: its opcode and operand bytes are latched, the engine is busy, the response held so far is
gone. -/
def accept (op : BitVec 3) (a b c : Byte) (s : State) : State := markAccepted (latch op a b c s)

/-- R20: the acceptance of a word, legal or not (R50). -/
def acceptWord (w : Word) (s : State) : State := accept (fieldOP w) (fieldA w) (fieldB w) (fieldC w) s

/-- R22: a command finishes: R holds the result, the response is held, the engine is idle. -/
def respond (v : Byte) (s : State) : State := markResponded false (writeR v s)

/-- R84, R90: IllegalCommand, the block's only fault, taken: the response is held with its fault bit set, the engine is
idle, `buf_req` is 0, R holds no defined value (a free value), nothing is saved and control goes nowhere. The model's own
record counts it (D20). There is no return operation (R91): the next acceptance clears the indication. -/
def takeIllegalCommand (s : State) : State :=
  markResponded true
    { s with
      r := Config.freeR s.draws
      bufReq := false
      faults := s.faults + 1
      draws := s.draws + 1 }

/-- R21, R73, R77: the engine asks for the buffer byte at index `i` with `r` in the register, and waits. -/
def awaitByte (i r : Byte) (s : State) : State := setIndex i true (writeR r s)

/-- R99, R100, R101: an edge with `rst` = 1: idle, no response held, no buffer request, whatever the engine was doing;
everything R26 calls unspecified takes a free value. The host's pins and buffer are not the engine's, and the model's own
fault record is never cleared (D20). -/
def resetEngine (s : State) : State :=
  { s with
    r := Config.freeR s.draws
    busy := false
    rspValid := false
    rspFault := Config.freeRspFault s.draws
    bufReq := false
    opr := Config.freeOpr s.draws
    a := Config.freeA s.draws
    b := Config.freeB s.draws
    c := Config.freeC s.draws
    d := Config.freeD s.draws
    k := Config.freeK s.draws
    i := Config.freeI s.draws
    draws := s.draws + 1 }

/-- R20: the word the engine accepts at this edge: the one on `cmd` when `cmd_valid` = 1 and `cmd_ready` = 1. -/
def offered (s : State) : Option Word :=
  if s.cmdValid && cmdReady s then some s.cmd else none

/-- R50, R84: an illegal word is accepted and ends at once in IllegalCommand. -/
def endIllegal (w : Word) (s : State) : State := takeIllegalCommand (acceptWord w s)

end Sys2Proof.Machine
end

