-- ==== Sys2Proof/Machine/ByteStep.lean ====
section
/-! DEFINITION. The two byte-step commands, each as one atomic transition from the idle engine (R10). -/

namespace Sys2Proof.Machine

/-- R61: `reference_step(crc, data)`: eight shifts; D has been shifted out and K has counted down to 0 (R59). -/
def execReferenceStep (crc data : Byte) (s : State) : Host.Outcome State Fault Refusal :=
  .next (respond (refStep poly crc data) (setShifter 0 0 (accept 0 crc data (unusedC s) s)))

/-- R65: `fast_step(crc, data)`: TABLE[A ^ B]. -/
def execFastStep (crc data : Byte) (s : State) : Host.Outcome State Fault Refusal :=
  .next (respond (fastStep poly crc data) (accept 1 crc data (unusedC s) s))

end Sys2Proof.Machine
end

