-- ==== Sys2Proof/Machine/Combine.lean ====
section
/-! DEFINITION. The two fixed-arity wrappers, each as one atomic transition from the idle engine (R10). -/

namespace Sys2Proof.Machine

/-- R78: `combine_2(data1, data2)`: two fast steps from SEED. -/
def execCombine2 (data1 data2 : Byte) (s : State) : Host.Outcome State Fault Refusal :=
  .next (respond (fastStep poly (fastStep poly seed data1) data2)
    (accept 3 data1 data2 (unusedC s) s))

/-- R79: `combine_3(data1, data2, data3)`: three fast steps from SEED. -/
def execCombine3 (data1 data2 data3 : Byte) (s : State) : Host.Outcome State Fault Refusal :=
  .next (respond (fastStep poly (fastStep poly (fastStep poly seed data1) data2) data3)
    (accept 4 data1 data2 data3 s))

end Sys2Proof.Machine
end

