-- ==== Sys2Proof/Machine/Fold.lean ====
section
/-! DEFINITION. The buffer fold `fold_n` as one atomic transition from the idle engine (R10). -/

namespace Sys2Proof.Machine

/-- R73: at most the given number of byte iterations from index `i` with `r` in the register: the index and the register
at which they end, early where a read is not admitted (R29). -/
def foldReads (s : State) : Nat → Byte → Byte → Byte × Byte
  | 0, i, r => (i, r)
  | m + 1, i, r =>
    match memRead s i with
    | some v => foldReads s m (i + 1) (fastStep poly r v)
    | none => (i, r)

/-- R74: `fold_n(crc, n)`: the reads of indices 0 to n-1; where all are admitted the response, with I = n and no request
outstanding; else R77: index `len` is requested and never answered, `busy` stays 1 and no response is held. -/
def execFoldN (crc n : Byte) (s : State) : Host.Outcome State Fault Refusal :=
  if (foldReads s n.toNat 0 crc).1 = n then
    .next (respond (foldReads s n.toNat 0 crc).2
      (setIndex n false (accept 2 crc n (unusedC s) s)))
  else
    .next (awaitByte (foldReads s n.toNat 0 crc).1 (foldReads s n.toNat 0 crc).2
      (accept 2 crc n (unusedC s) s))

end Sys2Proof.Machine
end

