-- ==== Sys2Proof/Machine/Dispatch.lean ====
section
/-! DEFINITION. One arm per command. -/

namespace Sys2Proof.Machine

/-- R10: a command's whole effect, from the idle engine at whose edge it is accepted. -/
def exec (i : Instr) (s : State) : Host.Outcome State Fault Refusal :=
  match i with
  | .referenceStep crc data => Sys2Proof.Machine.execReferenceStep crc data s
  | .fastStep crc data => Sys2Proof.Machine.execFastStep crc data s
  | .foldN crc n => Sys2Proof.Machine.execFoldN crc n s
  | .combine2 data1 data2 => Sys2Proof.Machine.execCombine2 data1 data2 s
  | .combine3 data1 data2 data3 => Sys2Proof.Machine.execCombine3 data1 data2 data3 s

end Sys2Proof.Machine
end

