-- ==== Sys2Proof/Machine/Ports.lean ====
section
/-! DEFINITION. The host's side of the ports (R19): what it reads, an output with no defined value being refused (R27),
and what it drives. -/

namespace Sys2Proof.Machine

/-- R19, R27: reading `rsp_crc`: R, while a response is held and its fault bit is 0; else refused. -/
def readCrc (s : State) : Except Refusal Byte :=
  if s.rspValid && !s.rspFault then .ok s.r else .error .noDefinedValue

/-- R19: reading `rsp_fault`: meaningful while a response is held; else refused. -/
def readFault (s : State) : Except Refusal Bool :=
  if s.rspValid then .ok s.rspFault else .error .noDefinedValue

/-- R18, R19: reading `buf_idx`: I, while `buf_req` = 1; else refused. -/
def readBufIdx (s : State) : Except Refusal Byte :=
  if s.bufReq then .ok s.i else .error .noDefinedValue

/-- R21: `buf_ack`: the host answers a request for an index its buffer holds, and no other. -/
def bufAck (s : State) : Bool := s.bufReq && (memRead s s.i).isSome

/-- R19, R21: `buf_data`: the byte delivered; no meaning while `buf_ack` = 0. -/
def bufData (s : State) : Except Refusal Byte :=
  match s.bufReq, memRead s s.i with
  | true, some v => .ok v
  | _, _ => .error .noDefinedValue

/-- R19, R106: the host offers a word and holds it. -/
def offer (w : Word) (s : State) : State := { s with cmdValid := true, cmd := w }

/-- R106: the host offers nothing. -/
def withdraw (s : State) : State := { s with cmdValid := false }

/-- R28: the host's buffer holds these bytes from now on. R107: not during a fold. -/
def serve (vs : List Byte) (s : State) : State := { s with buf := Memory.ofBytes vs }

/-- R99: the host drives `rst`. -/
def setReset (v : Bool) (s : State) : State := { s with rst := v }

end Sys2Proof.Machine
end

