-- ==== Sys2Proof/Machine/Sequencer.lean ====
section
/-! DEFINITION. The small-step sequencing of a command in progress (R25, R59, R73): the engine transitions enabled while
`busy` = 1, and the busy state each command starts from. -/

namespace Sys2Proof.Machine

/-- The busy state right after a command's acceptance (R20), with the working registers its sequencing starts from: R59
`R <- c; D <- d; K <- 8`; R73 `R <- A; I <- 0`, index 0 requested when n ≠ 0 (R21). -/
def begin (i : Instr) (s : State) : State :=
  match i with
  | .referenceStep crc data =>
    setShifter data 8 (writeR crc (accept 0 crc data (unusedC s) s))
  | .fastStep crc data => accept 1 crc data (unusedC s) s
  | .foldN crc n =>
    setIndex 0 (decide (n ≠ 0)) (writeR crc (accept 2 crc n (unusedC s) s))
  | .combine2 data1 data2 => accept 3 data1 data2 (unusedC s) s
  | .combine3 data1 data2 data3 => accept 4 data1 data2 data3 s

/-- R59: one shift: `R <- Shift1(R, D[7]); D <- (D << 1)_8; K <- K - 1`. -/
def shiftOnce (s : State) : State :=
  setShifter (s.d <<< 1) (s.k - 1) (writeR (shift1 poly s.r (s.d.getLsbD 7)) s)

/-- R73: one byte of a fold: `R <- FastStep(R, v); I <- I + 1`; the request is dropped after the last byte, else it
presents the next index (R21). -/
def foldOnce (v : Byte) (s : State) : State :=
  setIndex (s.i + 1) (decide (s.i + 1 ≠ s.b)) (writeR (fastStep poly s.r v) s)

/-- R25: the one engine transition enabled in a busy state; none where a requested byte is not answered (R87). An opcode
that is none of the five's ends in IllegalCommand (R84). Log entry 9. -/
def tick (s : State) : Option State :=
  match s.opr.toNat with
  | 0 => if s.k = 0 then some (respond s.r s) else some (shiftOnce s)
  | 1 => some (respond (fastStep poly s.a s.b) s)
  | 2 => if s.i = s.b then some (respond s.r s) else (memRead s s.i).map fun v => foldOnce v s
  | 3 => some (respond (fastStep poly (fastStep poly seed s.a) s.b) s)
  | 4 => some (respond (fastStep poly (fastStep poly (fastStep poly seed s.a) s.b) s.c) s)
  | _ => some (takeIllegalCommand s)

/-- R25, R87: a busy engine takes its enabled transition; where none is enabled it is stuck. -/
def advance (s : State) : Host.Outcome State Fault Refusal :=
  match tick s with
  | some t => .next t
  | none => .fault .stuck

end Sys2Proof.Machine
end

