-- ==== Sys2Proof/Machine/Step.lean ====
section
/-! DEFINITION. One step: reset first (R101), else the transition of a command in progress (R25), else the acceptance of
an offered command and its whole effect (R10, R20), else the idle engine holds its state (R97). Log entry 9. -/

namespace Sys2Proof.Machine

/-- One transition at the pins the host drives. -/
def step (s : State) : Host.Outcome State Fault Refusal :=
  if s.rst then .next (resetEngine s)
  else if s.busy then advance s
  else
    match offered s with
    | none => .next s
    | some w =>
      match decode w with
      | .command i => exec i s
      | .illegal _ => .next (endIllegal w s)

/-- The state at whose next step the word with the low `nbits` bits of `w` is accepted and runs: the word on `cmd`,
offered, the engine idle and reset released. Stands for the host's offer (log entry 6). -/
def State.withFetchWord (s : State) (nbits w : Nat) : State :=
  { s with rst := false, busy := false, cmdValid := true, cmd := tableWord nbits w }

end Sys2Proof.Machine
end

