-- ==== Sys2Proof/Machine/Program.lean ====
section
/-! DEFINITION. A program in the listings' form (R55): lines executed in order by the host, which binds each response to
the line's name and substitutes it where a later line uses the name (R14); the engine does neither. Log entry 14. -/

namespace Sys2Proof.Machine

/-- R55: an operand of a line: a byte, or a name bound on an earlier line (the line's number stands for its name). -/
inductive Arg where
  | byte (v : Byte)
  | bound (line : Nat)
deriving DecidableEq, Repr

/-- R55, 95_test_vectors.md Part C: a line: one of the five commands, a fold with the buffer the host serves for it; a raw
word; or a pulse of `rst`. A name may stand for any operand byte, the count of a fold and a byte of its buffer among them. -/
inductive Line where
  | referenceStep (crc data : Arg)
  | fastStep (crc data : Arg)
  | foldN (crc : Arg) (buffer : List Arg) (n : Arg)
  | combine2 (data1 data2 : Arg)
  | combine3 (data1 data2 data3 : Arg)
  | word (w : Word)
  | reset
deriving DecidableEq, Repr

/-- The host's record of a program, one entry a line: the response the line's name is bound to; none where that line got no
response a host may read (R27: a fault response, no response, no command). DESIGN CHOICE: none too for a line that offers
nothing, because a name in it is bound to none (log entry 14). -/
abbrev Bindings := List (Option Byte)

/-- R55: the value of an operand, none where the name is bound to no value. -/
def Arg.value (env : Bindings) : Arg → Option Byte
  | .byte v => some v
  | .bound line => (env[line]?).join

/-- R55: the values of a bracketed list, none where one of them has none. -/
def Arg.values (env : Bindings) : List Arg → Option (List Byte)
  | [] => some []
  | x :: xs => do return (← x.value env) :: (← Arg.values env xs)

/-- R55: the command of a line, each name replaced by the response it is bound to; none where a name has none, and for the
lines that name no command. -/
def Line.command (env : Bindings) : Line → Option Instr
  | .referenceStep crc data => do return .referenceStep (← crc.value env) (← data.value env)
  | .fastStep crc data => do return .fastStep (← crc.value env) (← data.value env)
  | .foldN crc _ n => do return .foldN (← crc.value env) (← n.value env)
  | .combine2 x y => do return .combine2 (← x.value env) (← y.value env)
  | .combine3 x y z => do return .combine3 (← x.value env) (← y.value env) (← z.value env)
  | .word _ => none
  | .reset => none

/-- R55, R54: the word the host puts on `cmd` for a line; none for the reset line and for an unbound name. -/
def Line.cmdWord (env : Bindings) : Line → Option Word
  | .word w => some w
  | line => (line.command env).map encode

/-- R55: the host's buffer at a line: what a fold's line lists; else as it was. -/
def Line.serving (env : Bindings) (s : State) : Line → Option State
  | .foldN _ buffer _ => (Arg.values env buffer).map fun vs => serve vs s
  | _ => some s

/-- What the host drives for a line: its buffer and its word, `rst` released; or `rst` = 1 and no word. DESIGN CHOICE: none,
the host drives nothing, for a line in which a name has no value (log entry 14). -/
def Line.drive (env : Bindings) (s : State) : Line → Option State
  | .reset => some (setReset true (withdraw s))
  | line => do return offer (← line.cmdWord env) (setReset false (← line.serving env s))

/-- The host's reading of the response, as far as it has one. -/
def response (s : State) : Option Byte := (readCrc s).toOption

/-- R111, R112: the host waits, offering nothing, until the engine is idle; a stuck engine stops the run (R87). No busy
engine needs more transitions than the 256 that `transitionsLeft_le` (Laws/Program.lean) shows to be enough. -/
def awaitIdle : Nat → State → Host.Outcome State Fault Refusal
  | 0, s => .next s
  | k + 1, s =>
    if s.busy then
      match step s with
      | .next t => awaitIdle k t
      | .fault x => .fault x
      | .refused x => .refused x
    else .next s

/-- R106, R107, R111: the engine as a line finds it: each command is offered, and its buffer served, only after the response
to the one before; reset alone does not wait (R101). -/
def Line.await (s : State) : Line → Host.Outcome State Fault Refusal
  | .reset => .next s
  | _ => awaitIdle 256 (setReset false (withdraw s))

/-- R55, R111: the lines in order: the host waits for the response before, drives the line for one step and binds the
response, read before the next command (R109), to the line's name. A line that drives nothing takes no step; DESIGN CHOICE:
its name is bound to none, whatever response is still held (log entry 14). After the last line the host offers nothing
further, and the run ends when the engine is idle: never where it is stuck (95_test_vectors.md P4). -/
def runLines : List Line → Bindings → State → Host.Outcome (Bindings × State) Fault Refusal
  | [], env, s =>
    match awaitIdle 256 (setReset false (withdraw s)) with
    | .next t => .next (env, t)
    | .fault x => .fault x
    | .refused x => .refused x
  | line :: rest, env, s =>
    match line.await s with
    | .next u =>
      match line.drive env u with
      | none => runLines rest (env ++ [none]) u
      | some v =>
        match step v with
        | .next t => runLines rest (env ++ [response t]) t
        | .fault x => .fault x
        | .refused x => .refused x
    | .fault x => .fault x
    | .refused x => .refused x

end Sys2Proof.Machine
end

