-- ==== Sys2Proof/Safety.lean ====
section
/-! DEFINITION. What counts as a well-formed and as a safe state, in the terms statements use. -/

namespace Sys2Proof.Machine

/-- What the sequencing keeps in every state a run reaches: the buffer in its canonical form; no response held while a
command is in progress (R20, R22); in a bit-serial step at most 8 shifts remain (R15); in a fold the index is at most the
count and a byte is requested exactly while they differ (R21, R73); nothing else raises a request (R21). -/
def State.Inv (s : State) : Prop :=
  Memory.wf s.buf ∧
  (s.busy = true → s.rspValid = false) ∧
  (s.busy = true → s.opr = 0 → s.k.toNat ≤ 8) ∧
  (s.busy = true → s.opr = 2 → s.i.toNat ≤ s.b.toNat ∧ (s.bufReq = true ↔ s.i ≠ s.b)) ∧
  (s.bufReq = true → s.busy = true ∧ s.opr = 2)

/-- R87: stuck: busy with a request the host's buffer cannot answer. -/
def State.stuck (s : State) : Prop :=
  s.busy = true ∧ s.opr = 2 ∧ s.i ≠ s.b ∧ memRead s s.i = none

/-- R111: a run has ended: a response is held, the engine is idle and nothing further is offered. -/
def State.final (s : State) : Prop :=
  s.rspValid = true ∧ s.busy = false ∧ s.cmdValid = false ∧ s.rst = false

/-- R94, R20: the engine is idle, reset is released and the host offers the word `w`: the edge at which `w` is accepted. -/
def State.offers (s : State) (w : Word) : Prop :=
  s.busy = false ∧ s.rst = false ∧ s.cmdValid = true ∧ s.cmd = w

/-- R108: the host's buffer holds the bytes a command reads: n of them for a fold, none for the others. -/
def State.serves (s : State) : Instr → Prop
  | .foldN _ n => n.toNat ≤ Memory.len s.buf
  | .referenceStep _ _ => True
  | .fastStep _ _ => True
  | .combine2 _ _ => True
  | .combine3 _ _ _ => True

/-- The value a command's rule gives (R61, R65, R74, R78, R79), from its operands, the build's constants and the bytes of
the host's buffer: what `rsp_crc` is to be. -/
def result (buf : List Byte) : Instr → Byte
  | .referenceStep crc data => refStep poly crc data
  | .fastStep crc data => fastStep poly crc data
  | .foldN crc n => fold poly crc buf n.toNat
  | .combine2 data1 data2 => fastStep poly (fastStep poly seed data1) data2
  | .combine3 data1 data2 data3 => fastStep poly (fastStep poly (fastStep poly seed data1) data2) data3

/-- R19: what the host can see of the engine is the same in two states: every output port, an output with no defined
value being refused in both (R27). -/
def sameOutputs (s t : State) : Prop :=
  cmdReady s = cmdReady t ∧ s.bufReq = t.bufReq ∧ readBufIdx s = readBufIdx t ∧
  s.rspValid = t.rspValid ∧ readCrc s = readCrc t ∧ readFault s = readFault t

end Sys2Proof.Machine
end

