-- ==== Sys2Proof/WellFormed.lean ====
section
/-! DEFINITION. What is well formed: every command (its operands are bytes and every byte is legal), a command word
(R50), and a canonical command word (R54). -/

namespace Sys2Proof

/-- R61, R65, R74, R78, R79: every value of every operand is legal, and the type of `Instr` admits nothing wider, so no
command is ill formed. One arm per command, so that a new command cannot be taken as well formed unseen. -/
def Instr.wf : Instr → Bool
  | .referenceStep _ _ => true
  | .fastStep _ _ => true
  | .foldN _ _ => true
  | .combine2 _ _ => true
  | .combine3 _ _ _ => true

/-- R50: a word is legal when its low byte is at most 0x04. -/
def legalWord (w : Word) : Bool := decide (lowByte w ≤ 4)

/-- R54: a word is canonical when it is legal and its unused field is zero: C for opcodes 0 to 3. -/
def canonicalWord (w : Word) : Bool :=
  legalWord w && (decide (lowByte w = 4) || decide (fieldC w = 0))

end Sys2Proof
end

