-- ==== Sys2Proof/Certificates/Slice0/Obligations.lean ====
section
/-! DEFINITION. The statements for the provers, each from the numbered rules its docstring names. A statement about every
polynomial quantifies over it (`p`); one about the machine uses the build's own (`poly`, `seed`), of which nothing is known
but POLY ≠ 0x00. The model's own draw counter is left open (`m`): no statement rests on it or on a free value. -/

open Sys2Proof Sys2Proof.Machine
open Polynomial (X)

/-- R11: bit i of a byte is the coefficient of x^i: the polynomial over GF(2) that a byte stands for. -/
def Sys2Proof.PolyOf (v : Byte) (q : Polynomial (ZMod 2)) : Prop :=
  ∀ j, q.coeff j = if v.getLsbD j then 1 else 0

/-! ## Encoding -/

/-- R45, R53: every word is its five fields at the places and with the integer value R45 gives, and decodes by Z and OP as
R53 says. -/
def Obligations.FieldsDecode : Prop :=
  (∀ w : Word, ∃ (c b a : Byte) (z : BitVec 5) (op : BitVec 3),
    w.toNat = c.toNat * 2 ^ 24 + b.toNat * 2 ^ 16 + a.toNat * 2 ^ 8 + z.toNat * 2 ^ 3 + op.toNat) ∧
  ∀ (w : Word) (c b a : Byte) (z : BitVec 5) (op : BitVec 3),
    w.toNat = c.toNat * 2 ^ 24 + b.toNat * 2 ^ 16 + a.toNat * 2 ^ 8 + z.toNat * 2 ^ 3 + op.toNat →
    (z ≠ 0 → ∃ why, decode w = .illegal why) ∧
    (z = 0 →
      (op = 0 → decode w = .command (.referenceStep a b)) ∧
      (op = 1 → decode w = .command (.fastStep a b)) ∧
      (op = 2 → decode w = .command (.foldN a b)) ∧
      (op = 3 → decode w = .command (.combine2 a b)) ∧
      (op = 4 → decode w = .command (.combine3 a b c)) ∧
      (op = 5 ∨ op = 6 ∨ op = 7 → ∃ why, decode w = .illegal why))

/-- R54: decode of encode is the command, for every well-formed command; encode of decode is the word exactly when the word
is legal and its unused field is zero; the canonical words as integers, and R54's three examples. -/
def Obligations.DecodeEncodeRoundTrip : Prop :=
  (∀ i : Instr, i.wf = true → decode (encode i) = .command i) ∧
  (∀ w : Word, (∃ i, decode w = .command i ∧ encode i = w) ↔
    (lowByte w ≤ 4 ∧ (lowByte w ≠ 4 → fieldC w = 0))) ∧
  (∀ crc data : Byte,
    (encode (.referenceStep crc data)).toNat = data.toNat * 2 ^ 16 + crc.toNat * 2 ^ 8 + 0) ∧
  (∀ crc data : Byte, (encode (.fastStep crc data)).toNat = data.toNat * 2 ^ 16 + crc.toNat * 2 ^ 8 + 1) ∧
  (∀ crc n : Byte, (encode (.foldN crc n)).toNat = n.toNat * 2 ^ 16 + crc.toNat * 2 ^ 8 + 2) ∧
  (∀ x y : Byte, (encode (.combine2 x y)).toNat = y.toNat * 2 ^ 16 + x.toNat * 2 ^ 8 + 3) ∧
  (∀ x y z : Byte,
    (encode (.combine3 x y z)).toNat = z.toNat * 2 ^ 24 + y.toNat * 2 ^ 16 + x.toNat * 2 ^ 8 + 4) ∧
  encode (.fastStep 0xA5 0x3C) = 0x003CA501 ∧
  encode (.combine3 0x01 0x02 0x03) = 0x03020104 ∧
  encode (.foldN 0xFF 9) = 0x0009FF02

/-- 95_test_vectors.md V7: words written out from the encoding, each decoding to the command it stands for or refused. -/
def Obligations.SampleWordsDecode : Prop :=
  decode 0xAB010000 = .command (.referenceStep 0x00 0x01) ∧
  decode 0x003CA501 = .command (.fastStep 0xA5 0x3C) ∧
  decode 0x0009FF02 = .command (.foldN 0xFF 9) ∧
  decode 0x0001C003 = .command (.combine2 0xC0 0x01) ∧
  decode 0x03020104 = .command (.combine3 0x01 0x02 0x03) ∧
  decode 0x00000005 = .illegal (.reservedOpcode 5) ∧
  decode 0x00010008 = .illegal (.reservedField 1)

/-- R49: for opcodes 0 to 3 two words that differ only in field C are the same command, and a step that accepts the one
differs from a step that accepts the other in nothing but the pins and the latch that hold the byte itself. -/
def Obligations.UnusedFieldIgnored : Prop :=
  ∀ w w' : Word, w.toNat % 2 ^ 24 = w'.toNat % 2 ^ 24 → lowByte w ≤ 3 →
    decode w = decode w' ∧
    ∀ s : State, s.offers w → ∃ t, step s = .next t ∧
      step { s with cmd := w' } = .next { t with cmd := w', c := fieldC w' }

/-- R50: a word is illegal exactly when Z ≠ 0 or OP is 5, 6 or 7, that is when its low byte is above 0x04: 251 of the 256
low bytes; the engine accepts it and ends it at once in IllegalCommand, with no buffer request. -/
def Obligations.IllegalWords : Prop :=
  (∀ w : Word, (∃ why, decode w = .illegal why) ↔
    (fieldZ w ≠ 0 ∨ fieldOP w = 5 ∨ fieldOP w = 6 ∨ fieldOP w = 7)) ∧
  (∀ w : Word, (∃ why, decode w = .illegal why) ↔ 4 < lowByte w) ∧
  ((List.range 256).filter fun v => (decodeTableWord 8 v).isNone).length = 251 ∧
  ((List.range 256).filter fun v => (decodeTableWord 8 v).isSome).length = 5 ∧
  (∀ (s : State) (w : Word), s.offers w → 4 < lowByte w →
    step s = .next (takeIllegalCommand (acceptWord w s)) ∧
    (takeIllegalCommand (acceptWord w s)).bufReq = false)

/-! ## The byte step -/

/-- R58: one clock of the shift register: the feedback form, the result bit by bit, its reading as
(x·r(x) + b·x^8) mod G(x) with G(x) = x^8 + POLY, and R58's three examples. -/
def Obligations.ShiftRegister : Prop :=
  (∀ (p r : Byte) (b : Bool),
    ((r.getLsbD 7 ^^ b) = true → shift1 p r b = (r <<< 1) ^^^ p) ∧
    ((r.getLsbD 7 ^^ b) = false → shift1 p r b = r <<< 1)) ∧
  (∀ (p r : Byte) (b : Bool), (shift1 p r b).getLsbD 0 = ((r.getLsbD 7 ^^ b) && p.getLsbD 0)) ∧
  (∀ (p r : Byte) (b : Bool) (i : Nat), 1 ≤ i → i ≤ 7 →
    (shift1 p r b).getLsbD i = (r.getLsbD (i - 1) ^^ ((r.getLsbD 7 ^^ b) && p.getLsbD i))) ∧
  (∀ (p r : Byte) (b : Bool) (P R : Polynomial (ZMod 2)), PolyOf p P → PolyOf r R →
    PolyOf (shift1 p r b) ((X * R + (if b then X ^ 8 else 0)) %ₘ (X ^ 8 + P))) ∧
  shift1 0x93 0xFF false = 0x6D ∧ shift1 0x93 0x6D false = 0xDA ∧ shift1 0x93 0x00 true = 0x93

/-- R59: the reference step is eight shifts, bit 7 of the data byte first; the engine makes them in its working registers
R, D, K, from R <- c, D <- d, K <- 8, one at a time while K ≠ 0; and the result is ((c(x) + d(x))·x^8) mod G(x), the CRC of the byte. -/
def Obligations.ReferenceStepIsRemainder : Prop :=
  (∀ p c d : Byte, refStep p c d =
    shift1 p (shift1 p (shift1 p (shift1 p (shift1 p (shift1 p (shift1 p (shift1 p c
      (d.getLsbD 7)) (d.getLsbD 6)) (d.getLsbD 5)) (d.getLsbD 4)) (d.getLsbD 3)) (d.getLsbD 2))
      (d.getLsbD 1)) (d.getLsbD 0)) ∧
  (∀ (c d : Byte) (s : State), (begin (.referenceStep c d) s).r = c ∧ (begin (.referenceStep c d) s).d = d ∧
    (begin (.referenceStep c d) s).k = 8) ∧
  (∀ s : State, s.rst = false → s.busy = true → s.opr = 0 → s.k ≠ 0 →
    step s = .next { s with r := shift1 poly s.r (s.d.getLsbD 7), d := s.d <<< 1, k := s.k - 1 }) ∧
  (∀ s : State, s.rst = false → s.busy = true → s.opr = 0 → s.k = 8 →
    Host.Core.run Sys2Proof.core 8 s = .next { s with r := refStep poly s.r s.d, d := 0, k := 0 }) ∧
  (∀ (p c d : Byte) (P C D : Polynomial (ZMod 2)), PolyOf p P → PolyOf c C → PolyOf d D →
    PolyOf (refStep p c d) (((C + D) * X ^ 8) %ₘ (X ^ 8 + P)))

/-- R60: the byte-parallel form, its linearity, and what follows for the reference step, for every POLY. -/
def Obligations.ByteParallelForm : Prop :=
  ∀ p c d : Byte,
    refStep p c d = refStep p 0x00 (c ^^^ d) ∧
    refStep p c d = par8 p (c ^^^ d) ∧
    par8 p (c ^^^ d) = par8 p c ^^^ par8 p d ∧
    par8 p 0x00 = 0x00 ∧
    refStep p c d = par8 p c ^^^ par8 p d ∧
    refStep p c d = refStep p d c ∧
    refStep p c c = 0x00

/-- R63: the table's 256 entries, the first two for every POLY. -/
def Obligations.TableEntries : Prop :=
  ∀ p : Byte, (table p).length = 256 ∧
    (∀ i : Nat, i < 256 → (table p)[i]? = some (refStep p 0x00 (BitVec.ofNat 8 i))) ∧
    (table p)[0]? = some 0x00 ∧ (table p)[1]? = some p

/-- R64, R66: the fast step is the table's entry at crc XOR data, and it equals the reference step on every operand pair,
for every POLY (`stepsAgree`); the two commands respond alike on the same operands in every state. -/
def Obligations.FastEqualsReference : Prop :=
  (∀ p : Byte, stepsAgree p) ∧
  (∀ p c d : Byte, (table p)[(c ^^^ d).toNat]? = some (fastStep p c d) ∧
    fastStep p c d = refStep p 0x00 (c ^^^ d) ∧ fastStep p c d = refStep p c d) ∧
  (∀ (c d : Byte) (s : State), ∃ t u, exec (.fastStep c d) s = .next t ∧ exec (.referenceStep c d) s = .next u ∧
    sameOutputs t u ∧ readCrc t = .ok (refStep poly c d))

/-- R67: with POLY ≠ 0x00 every single-bit flip of the data byte changes the response; the two responses differ by
TABLE[1 << k], whatever the operands; the eight differences at POLY = 0x93, where the step separates every pair of distinct
data bytes; and at POLY = 0x00 the property fails. -/
def Obligations.SingleBitDetection : Prop :=
  (∀ (p c d : Byte) (k : Nat), k < 8 →
    refStep p c d ^^^ refStep p c (d ^^^ (1#8 <<< k)) = tableAt p (1#8 <<< k)) ∧
  (∀ (p c d : Byte) (k : Nat), p ≠ 0x00 → k < 8 → refStep p c d ≠ refStep p c (d ^^^ (1#8 <<< k))) ∧
  (∀ k : Nat, k < 8 → tableAt 0x00 (1#8 <<< k) = 0x00) ∧
  (List.range 8).map (fun k => tableAt 0x93 (1#8 <<< k)) = [0x93, 0xB5, 0xF9, 0x61, 0xC2, 0x17, 0x2E, 0x5C] ∧
  (∀ c d d' : Byte, d ≠ d' → refStep 0x93 c d ≠ refStep 0x93 c d')

/-- R6: the single-bit property holds exactly when POLY ≠ 0x00; the step is a bijection of the register for each data byte
exactly when POLY is odd, as 128 values are, 0x93 among them; and the build's POLY is not 0x00. -/
def Obligations.AdmissiblePolynomial : Prop :=
  (∀ p : Byte, (∀ (c d : Byte) (k : Nat), k < 8 → refStep p c d ≠ refStep p c (d ^^^ (1#8 <<< k))) ↔ p ≠ 0x00) ∧
  (∀ p : Byte, (∀ d : Byte, Function.Bijective fun c => refStep p c d) ↔ p.getLsbD 0 = true) ∧
  ((List.range 256).filter fun v => (BitVec.ofNat 8 v).getLsbD 0).length = 128 ∧
  (0x93#8).getLsbD 0 = true ∧
  poly ≠ 0x00

/-- R68: zero data from a zero register leaves it at zero, for every POLY, so a run of zero bytes from seed 0x00 stays at
0x00 and leading zero bytes are not detected from that seed; the all-ones responses. -/
def Obligations.ZeroResponse : Prop :=
  (∀ p : Byte, refStep p 0x00 0x00 = 0x00) ∧
  (∀ (p : Byte) (n : Nat) (m : List Byte),
    fold p 0x00 (List.replicate n 0x00 ++ m) (n + m.length) = fold p 0x00 m m.length) ∧
  (∀ (p : Byte) (n : Nat), fold p 0x00 (List.replicate n 0x00) n = 0x00) ∧
  (∀ p : Byte, refStep p 0xFF 0xFF = 0x00) ∧
  refStep 0x93 0x00 0xFF = 0x19 ∧ refStep 0x93 0xFF 0x00 = 0x19

/-- R69: the unrolled network: for every POLY output bit j is the XOR of the bits k of crc XOR data for which bit j of
TABLE[1 << k] is 1; and the eight equations at POLY = 0x93. -/
def Obligations.UnrolledNetwork : Prop :=
  (∀ (p c d : Byte) (j : Nat), j < 8 →
    (fastStep p c d).getLsbD j =
      ((List.range 8).map fun k => (c ^^^ d).getLsbD k && (tableAt p (1#8 <<< k)).getLsbD j).foldl xor false) ∧
  (∀ c d x y : Byte, x = c ^^^ d → y = fastStep 0x93 c d →
    y.getLsbD 7 = (x.getLsbD 4 ^^ x.getLsbD 2 ^^ x.getLsbD 1 ^^ x.getLsbD 0) ∧
    y.getLsbD 6 = (x.getLsbD 7 ^^ x.getLsbD 4 ^^ x.getLsbD 3 ^^ x.getLsbD 2) ∧
    y.getLsbD 5 = (x.getLsbD 6 ^^ x.getLsbD 3 ^^ x.getLsbD 2 ^^ x.getLsbD 1) ∧
    y.getLsbD 4 = (x.getLsbD 7 ^^ x.getLsbD 5 ^^ x.getLsbD 2 ^^ x.getLsbD 1 ^^ x.getLsbD 0) ∧
    y.getLsbD 3 = (x.getLsbD 7 ^^ x.getLsbD 6 ^^ x.getLsbD 2) ∧
    y.getLsbD 2 = (x.getLsbD 7 ^^ x.getLsbD 6 ^^ x.getLsbD 5 ^^ x.getLsbD 1) ∧
    y.getLsbD 1 = (x.getLsbD 6 ^^ x.getLsbD 5 ^^ x.getLsbD 4 ^^ x.getLsbD 0) ∧
    y.getLsbD 0 = (x.getLsbD 5 ^^ x.getLsbD 3 ^^ x.getLsbD 2 ^^ x.getLsbD 1 ^^ x.getLsbD 0))

/-- R61: `reference_step` whole: its encoding; that it completes in every state with RefStep(A, B) in R, and what else it
writes (the acceptance latches, the response bits, D and K) and that it writes nothing else: no memory, no pin, no fault;
that R before it does not matter; its corner cases and its two examples. -/
def Obligations.ReferenceStepCommand : Prop :=
  (∀ w : Word, lowByte w = 0x00 → decode w = .command (.referenceStep (fieldA w) (fieldB w))) ∧
  (∀ (crc data : Byte) (s : State), ∃ m, exec (.referenceStep crc data) s = .next
    { s with
      r := refStep poly crc data, busy := false, rspValid := true, rspFault := false
      opr := 0, a := crc, b := data, c := fieldC s.cmd, d := 0, k := 0, draws := m }) ∧
  (∀ (crc data v : Byte) (s : State),
    exec (.referenceStep crc data) { s with r := v } = exec (.referenceStep crc data) s) ∧
  (∀ p c : Byte, refStep p c c = 0x00) ∧
  decode 0x00010000 = .command (.referenceStep 0x00 0x01) ∧ refStep 0x93 0x00 0x01 = 0x93 ∧
  decode 0x0000FF00 = .command (.referenceStep 0xFF 0x00) ∧ refStep 0x93 0xFF 0x00 = 0x19 ∧
  (List.range 9).map (fun m => Nat.repeat (fun r => shift1 0x93 r false) m 0xFF) =
    [0xFF, 0x6D, 0xDA, 0x27, 0x4E, 0x9C, 0xAB, 0xC5, 0x19]

/-- R65: `fast_step` whole: its encoding; that it completes in every state with TABLE[A ^ B] in R, the acceptance latches
and the response bits written and nothing else; that R before it does not matter; that it responds as `reference_step`; its
corner cases and its example. -/
def Obligations.FastStepCommand : Prop :=
  (∀ w : Word, lowByte w = 0x01 → decode w = .command (.fastStep (fieldA w) (fieldB w))) ∧
  (∀ (crc data : Byte) (s : State), ∃ m, exec (.fastStep crc data) s = .next
    { s with
      r := tableAt poly (crc ^^^ data), busy := false, rspValid := true, rspFault := false
      opr := 1, a := crc, b := data, c := fieldC s.cmd, draws := m }) ∧
  (∀ (crc data v : Byte) (s : State),
    exec (.fastStep crc data) { s with r := v } = exec (.fastStep crc data) s) ∧
  (∀ c d : Byte, tableAt poly (c ^^^ d) = refStep poly c d) ∧
  (∀ p c : Byte, fastStep p c c = 0x00) ∧
  decode 0x003CA501 = .command (.fastStep 0xA5 0x3C) ∧ (0xA5 ^^^ 0x3C : Byte) = 0x99 ∧
  fastStep 0x93 0xA5 0x3C = 0x6C

/-! ## The wrappers -/

/-- R78: `combine_2` whole: its encoding; that it completes in every state with the two steps from SEED in R, the
acceptance latches and the response bits written and nothing else; that R before it does not matter; its corner cases and
its example. -/
def Obligations.Combine2Command : Prop :=
  (∀ w : Word, lowByte w = 0x03 → decode w = .command (.combine2 (fieldA w) (fieldB w))) ∧
  (∀ (x y : Byte) (s : State), ∃ m, exec (.combine2 x y) s = .next
    { s with
      r := fastStep poly (fastStep poly seed x) y, busy := false, rspValid := true, rspFault := false
      opr := 3, a := x, b := y, c := fieldC s.cmd, draws := m }) ∧
  (∀ (x y v : Byte) (s : State), exec (.combine2 x y) { s with r := v } = exec (.combine2 x y) s) ∧
  (∀ p : Byte, fastStep p (fastStep p 0x00 0x00) 0x00 = 0x00) ∧
  fastStep 0x93 (fastStep 0x93 0x00 0x01) 0x02 = 0x0D ∧ fastStep 0x93 (fastStep 0x93 0x00 0x02) 0x01 = 0x70 ∧
  decode 0x0001C003 = .command (.combine2 0xC0 0x01) ∧
  fastStep 0x93 0x00 0xC0 = 0x72 ∧ tableAt 0x93 0x73 = 0xDD ∧ fastStep 0x93 0x72 0x01 = 0xDD

/-- R79: `combine_3` whole: its encoding, field C used; that it completes in every state with the three steps from SEED in
R, the acceptance latches and the response bits written and nothing else; that R before it does not matter; zero input and
its example. -/
def Obligations.Combine3Command : Prop :=
  (∀ w : Word, lowByte w = 0x04 → decode w = .command (.combine3 (fieldA w) (fieldB w) (fieldC w))) ∧
  (∀ (x y z : Byte) (s : State), ∃ m, exec (.combine3 x y z) s = .next
    { s with
      r := fastStep poly (fastStep poly (fastStep poly seed x) y) z, busy := false, rspValid := true
      rspFault := false, opr := 4, a := x, b := y, c := z, draws := m }) ∧
  (∀ (x y z v : Byte) (s : State), exec (.combine3 x y z) { s with r := v } = exec (.combine3 x y z) s) ∧
  (∀ p : Byte, fastStep p (fastStep p (fastStep p 0x00 0x00) 0x00) 0x00 = 0x00) ∧
  fastStep 0x93 (fastStep 0x93 (fastStep 0x93 0x00 0x02) 0x01) 0x03 ≠
    fastStep 0x93 (fastStep 0x93 (fastStep 0x93 0x00 0x01) 0x02) 0x03 ∧
  decode 0x03020104 = .command (.combine3 0x01 0x02 0x03) ∧
  fastStep 0x93 0x00 0x01 = 0x93 ∧ fastStep 0x93 0x93 0x02 = 0x0D ∧ fastStep 0x93 0x0D 0x03 = 0x2D

/-- R80: the wrappers respond as the fold of their bytes from SEED by a host that serves them, and as chains of
`fast_step`. -/
def Obligations.WrapperConsistency : Prop :=
  (∀ (x y : Byte) (s : State), ∃ t u,
    exec (.combine2 x y) s = .next t ∧ exec (.foldN seed 2) (serve [x, y] s) = .next u ∧
    readCrc t = readCrc u ∧ readCrc t = .ok (fastStep poly (fastStep poly seed x) y)) ∧
  (∀ (x y z : Byte) (s : State), ∃ t u v q,
    exec (.combine3 x y z) s = .next t ∧ exec (.foldN seed 3) (serve [x, y, z] s) = .next u ∧
    exec (.combine2 x y) s = .next v ∧ exec (.fastStep v.r z) v = .next q ∧
    readCrc t = readCrc u ∧ readCrc t = readCrc q)

/-- 42_combine.md, the check-byte law: a message folded with its own check byte leaves 0x00, for every POLY, and where POLY
is odd no other check byte does; so too for the wrappers, for every SEED; and the example. (R82's "exactly when" is stated
for odd POLY only: at an even POLY another byte can leave 0x00. Log entry 13.) -/
def Obligations.CheckByteResidue : Prop :=
  (∀ (p c : Byte) (m : List Byte), m.length ≤ 254 →
    fold p c (m ++ [fold p c m m.length]) (m.length + 1) = 0x00) ∧
  (∀ (p c k : Byte) (m : List Byte), m.length ≤ 254 → p.getLsbD 0 = true →
    (fold p c (m ++ [k]) (m.length + 1) = 0x00 ↔ k = fold p c m m.length)) ∧
  (∀ (x y : Byte) (s : State), ∃ t u,
    exec (.combine2 x y) s = .next t ∧ exec (.combine3 x y t.r) t = .next u ∧ readCrc u = .ok 0x00) ∧
  fastStep 0x93 (fastStep 0x93 0x00 0xC1) 0x02 = 0x43 ∧ fastStep 0x93 0x43 0x43 = 0x00

/-! ## The buffer and the fold -/

/-- R29: `MemRead(i, 1)`: BUF[i] where i < len, not admitted where i ≥ len, through the port: acknowledged, with that byte,
exactly where the request is for an index below `len`; a fold's read changes nothing but what the fold itself makes of the
byte; and where the read is not admitted the engine has no further transition. -/
def Obligations.BufferRead : Prop :=
  ∀ (s : State) (i : Byte), Memory.wf s.buf →
    (∀ h : i.toNat < Memory.len s.buf, memRead s i = some ((Memory.bytes s.buf)[i.toNat]'(by
      rw [Memory.bytes, List.length_map]; exact h))) ∧
    (Memory.len s.buf ≤ i.toNat → memRead s i = none) ∧
    (s.bufReq = true → (bufAck s = true ↔ s.i.toNat < Memory.len s.buf)) ∧
    (bufAck s = true → ∃ v, memRead s s.i = some v ∧ bufData s = .ok v) ∧
    (s.rst = false → s.busy = true → s.opr = 2 → s.i ≠ s.b →
      (∀ v, memRead s s.i = some v →
        step s = .next { s with r := fastStep poly s.r v, i := s.i + 1, bufReq := decide (s.i + 1 ≠ s.b) }) ∧
      (Memory.len s.buf ≤ s.i.toNat → step s = .fault .stuck))

/-- R72: the fold function: nothing folded at n = 0, one fast step with byte n more at n + 1, and no dependence on the bytes
at index n and above; for every POLY. -/
def Obligations.FoldFunction : Prop :=
  ∀ (p c : Byte) (buf : List Byte),
    fold p c buf 0 = c ∧
    (∀ (n : Nat) (h : n < buf.length), fold p c buf (n + 1) = fastStep p (fold p c buf n) buf[n]) ∧
    (∀ (n : Nat) (buf' : List Byte), buf.take n = buf'.take n → fold p c buf n = fold p c buf' n)

/-- R73: the small-step sequencing of a fold from its acceptance: R <- A, I <- 0, the count in B; after k bytes I = k, R is
the fold of k bytes and index k is requested, exactly while k is not the count; then the response, or, where the buffer ends
first, no further transition. -/
def Obligations.FoldSequencing : Prop :=
  ∀ (s : State) (crc n : Byte), s.rst = false → Memory.wf s.buf →
    (begin (.foldN crc n) s).r = crc ∧ (begin (.foldN crc n) s).i = 0 ∧ (begin (.foldN crc n) s).b = n ∧
    (∀ k : Nat, k ≤ n.toNat → k ≤ Memory.len s.buf → ∃ u,
      Host.Core.run Sys2Proof.core k (begin (.foldN crc n) s) = .next u ∧
      u.i.toNat = k ∧ u.b = n ∧ u.r = fold poly crc (Memory.bytes s.buf) k ∧
      u.busy = true ∧ u.rspValid = false ∧ (u.bufReq = true ↔ k ≠ n.toNat)) ∧
    (n.toNat ≤ Memory.len s.buf → ∃ t,
      Host.Core.run Sys2Proof.core (n.toNat + 1) (begin (.foldN crc n) s) = .next t ∧
      t.busy = false ∧ t.rspValid = true ∧ t.rspFault = false ∧ t.i = n ∧
      t.r = fold poly crc (Memory.bytes s.buf) n.toNat) ∧
    (Memory.len s.buf < n.toNat →
      Host.Core.run Sys2Proof.core (Memory.len s.buf + 1) (begin (.foldN crc n) s) = .fault .stuck)

/-- R74: `fold_n` whole, where the buffer holds the count of bytes: its encoding; that it completes with the fold in R, the
acceptance latches, the response bits, I and the dropped request written and nothing else, every byte of the buffer as
before; that the reads are of indices 0 to n-1 ascending; that R before it and the bytes from n on do not matter; n = 1; its
example. -/
def Obligations.FoldCommand : Prop :=
  (∀ w : Word, lowByte w = 0x02 → decode w = .command (.foldN (fieldA w) (fieldB w))) ∧
  (∀ (crc n : Byte) (s : State), Memory.wf s.buf → n.toNat ≤ Memory.len s.buf →
    ∃ m, exec (.foldN crc n) s = .next
      { s with
        r := fold poly crc (Memory.bytes s.buf) n.toNat, busy := false, rspValid := true, rspFault := false
        opr := 2, a := crc, b := n, c := fieldC s.cmd, i := n, bufReq := false, draws := m }) ∧
  (∀ (crc n : Byte) (s : State), s.rst = false → Memory.wf s.buf → n.toNat ≤ Memory.len s.buf →
    ∀ k : Nat, k < n.toNat → ∃ u, Host.Core.run Sys2Proof.core k (begin (.foldN crc n) s) = .next u ∧
      u.bufReq = true ∧ u.i.toNat = k ∧ bufAck u = true) ∧
  (∀ (crc n v : Byte) (s : State), exec (.foldN crc n) { s with r := v } = exec (.foldN crc n) s) ∧
  (∀ (crc n : Byte) (s : State) (vs vs' : List Byte), n.toNat ≤ vs.length → n.toNat ≤ vs'.length →
    vs.take n.toNat = vs'.take n.toNat → ∃ t, exec (.foldN crc n) (serve vs s) = .next t ∧
      exec (.foldN crc n) (serve vs' s) = .next (serve vs' t)) ∧
  (∀ (p c v : Byte) (vs : List Byte), fold p c (v :: vs) 1 = fastStep p c v) ∧
  decode 0x00020002 = .command (.foldN 0x00 2) ∧ fold 0x93 0x00 [0x01, 0x02] 2 = 0x0D

/-- R75: the empty fold: for every `crc` and every buffer, also one the host does not have, the response is `crc` and no
byte is requested; its example. -/
def Obligations.EmptyFold : Prop :=
  (∀ (crc : Byte) (s : State), ∃ t, exec (.foldN crc 0) s = .next t ∧
    t.r = crc ∧ t.busy = false ∧ t.rspValid = true ∧ t.rspFault = false ∧ t.bufReq = false ∧
    readCrc t = .ok crc ∧ (begin (.foldN crc 0) s).bufReq = false) ∧
  (∀ (p crc : Byte) (buf : List Byte), fold p crc buf 0 = crc) ∧
  decode 0x0000C702 = .command (.foldN 0xC7 0) ∧
  (∀ s : State, ∃ t, exec (.foldN 0xC7 0) (serve [] s) = .next t ∧ readCrc t = .ok 0xC7)

/-- R76: sequential composition: the fold of a message is the fold of its second part from the fold of its first, so two
commands that chain their responses give the response of one over the whole; `reference_step` may stand for `fast_step`;
and the step is not associative: order matters. -/
def Obligations.FoldComposition : Prop :=
  (∀ (p c : Byte) (u v : List Byte), u.length + v.length ≤ 255 →
    fold p c (u ++ v) (u.length + v.length) = fold p (fold p c u u.length) v v.length) ∧
  (∀ (crc m k : Byte) (u v : List Byte) (s : State), u.length = m.toNat → v.length = k.toNat →
    m.toNat + k.toNat ≤ 255 → ∃ t t' t'',
    exec (.foldN crc m) (serve u s) = .next t ∧ exec (.foldN t.r k) (serve v t) = .next t' ∧
    exec (.foldN crc (m + k)) (serve (u ++ v) s) = .next t'' ∧ readCrc t' = readCrc t'') ∧
  (∀ (crc b0 b1 : Byte) (s : State), ∃ t t' t'',
    exec (.fastStep crc b0) s = .next t ∧ exec (.fastStep t.r b1) t = .next t' ∧
    exec (.foldN crc 2) (serve [b0, b1] s) = .next t'' ∧ readCrc t' = readCrc t'') ∧
  (∀ (p c : Byte) (vs : List Byte), fold p c vs vs.length = vs.foldl (refStep p) c) ∧
  fold 0x93 0x00 [0x01, 0x02] 2 = 0x0D ∧ fold 0x93 0x00 [0x02, 0x01] 2 = 0x70 ∧
  fastStep 0x93 (fastStep 0x93 0x00 0x01) 0x02 ≠ fastStep 0x93 0x00 (fastStep 0x93 0x01 0x02)

/-- R56: the pseudo-operations: each form responds as its expansions, the host passing each response on as operand A; the
1-byte case is `fast_step` with the caller's seed. -/
def Obligations.PseudoOperations : Prop :=
  (∀ (c v : Byte) (s : State), ∃ t u, exec (.fastStep c v) s = .next t ∧ exec (.foldN c 1) (serve [v] s) = .next u ∧
    readCrc t = readCrc u) ∧
  (∀ (x y : Byte) (s : State), ∃ t t' u v, exec (.fastStep seed x) s = .next t ∧ exec (.fastStep t.r y) t = .next t' ∧
    exec (.foldN seed 2) (serve [x, y] s) = .next u ∧ exec (.combine2 x y) s = .next v ∧
    readCrc v = readCrc t' ∧ readCrc v = readCrc u) ∧
  (∀ (x y z : Byte) (s : State), ∃ t t' t'' u v, exec (.fastStep seed x) s = .next t ∧
    exec (.fastStep t.r y) t = .next t' ∧ exec (.fastStep t'.r z) t' = .next t'' ∧
    exec (.foldN seed 3) (serve [x, y, z] s) = .next u ∧ exec (.combine3 x y z) s = .next v ∧
    readCrc v = readCrc t'' ∧ readCrc v = readCrc u) ∧
  (∀ (c x y : Byte) (s : State), ∃ t t' u, exec (.fastStep c x) s = .next t ∧ exec (.fastStep t.r y) t = .next t' ∧
    exec (.foldN c 2) (serve [x, y] s) = .next u ∧ readCrc u = readCrc t')

/-- R77, R87: a fold of more bytes than the host holds: the bytes there are are read, index `len` is requested, `busy`
stays 1, no response and no fault; then no engine transition is enabled, whatever the host offers, until reset, which
abandons it. That R holds the fold of the bytes read while the engine waits is no rule of the spec but the model's own
(DEDUCED from R73, log entry 4). -/
def Obligations.UnderrunIsStuck : Prop :=
  ∀ (s : State) (crc n : Byte), Memory.wf s.buf → Memory.len s.buf < n.toNat → ∃ t,
    exec (.foldN crc n) s = .next t ∧
    t = { s with
      r := fold poly crc (Memory.bytes s.buf) (Memory.len s.buf), busy := true, rspValid := false
      rspFault := t.rspFault, bufReq := true, opr := 2, a := crc, b := n, c := fieldC s.cmd
      i := BitVec.ofNat 8 (Memory.len s.buf), draws := t.draws } ∧
    t.i.toNat = Memory.len s.buf ∧ bufAck t = false ∧ t.stuck ∧
    (∀ (v : Bool) (w : Word), step { t with rst := false, cmdValid := v, cmd := w } = .fault .stuck) ∧
    (∃ u, step { t with rst := true } = .next u ∧ u.busy = false ∧ u.rspValid = false ∧ u.bufReq = false)

/-- R30, R19: no step writes the host's buffer, at any index, or the host's pins. -/
def Obligations.HostInputsNeverWritten : Prop :=
  ∀ s t : State, step s = .next t →
    (∀ i : Nat, Memory.read t.buf i = Memory.read s.buf i) ∧ t.buf = s.buf ∧
    t.rst = s.rst ∧ t.cmdValid = s.cmdValid ∧ t.cmd = s.cmd

/-! ## The machine -/

/-- A step of an idle engine that is offered a legal word is `exec` of the command the word decodes to, on the same state:
nothing is added around it; so too for the word placed by `withFetchWord`. -/
def Obligations.StepRunsDecodedCommand : Prop :=
  (∀ (s : State) (w : Word) (i : Instr), s.offers w → decode w = .command i → step s = exec i s) ∧
  (∀ (s : State) (w : Nat) (i : Instr), decodeTableWord 32 w = some i →
    step (s.withFetchWord 32 w) = exec i (s.withFetchWord 32 w))

/-- R20: acceptance latches the word's opcode and operand bytes, sets `busy` and clears `rsp_valid`; while `busy` = 1 what
the host offers has no effect on the step; a command is never accepted that is not offered; and one still offered when the
engine is idle again is accepted. -/
def Obligations.CommandAcceptance : Prop :=
  (∀ (s : State) (w : Word) (i : Instr), s.offers w → decode w = .command i →
    (begin i s).busy = true ∧ (begin i s).rspValid = false ∧ cmdReady (begin i s) = false ∧
    (begin i s).opr = fieldOP w ∧ (begin i s).a = fieldA w ∧ (begin i s).b = fieldB w ∧ (begin i s).c = fieldC w) ∧
  (∀ (s : State) (v : Bool) (w : Word), s.busy = true → s.rst = false →
    (∀ t, step s = .next t → step { s with cmdValid := v, cmd := w } = .next { t with cmdValid := v, cmd := w }) ∧
    (∀ x, step s = .fault x → step { s with cmdValid := v, cmd := w } = .fault x) ∧
    (∀ x, step s = .refused x → step { s with cmdValid := v, cmd := w } = .refused x)) ∧
  (∀ s : State, s.busy = false → s.rst = false → s.cmdValid = false → step s = .next s) ∧
  (∀ (s t : State) (w : Word) (i : Instr), s.busy = true → s.rst = false → s.cmdValid = true → s.cmd = w →
    step s = .next t → t.busy = false → decode w = .command i → t.offers w ∧ step t = exec i t)

/-- R22: a command that finishes writes R with its rule's value, sets `rsp_fault` to 0, `rsp_valid` to 1 and `busy` to 0;
an illegal word sets `rsp_fault` to 1 and R holds no value to read; and the response is held unchanged, however long, until
the next acceptance or reset. -/
def Obligations.ResponseGivenAndHeld : Prop :=
  (∀ (s : State) (i : Instr), Memory.wf s.buf → s.serves i → ∃ t, exec i s = .next t ∧
    t.r = result (Memory.bytes s.buf) i ∧ t.rspFault = false ∧ t.rspValid = true ∧ t.busy = false ∧
    readCrc t = .ok (result (Memory.bytes s.buf) i)) ∧
  (∀ (s : State) (w : Word), s.offers w → 4 < lowByte w → ∃ t, step s = .next t ∧
    t.rspFault = true ∧ t.rspValid = true ∧ t.busy = false ∧ readCrc t = .error .noDefinedValue) ∧
  (∀ (s : State) (k : Nat), s.busy = false → s.rst = false → s.cmdValid = false →
    Host.Core.run Sys2Proof.core k s = .next s)

/-- R84: IllegalCommand is raised by every illegal word and by no legal one, before any buffer read: what the buffer holds
does not matter. -/
def Obligations.FaultExactlyOnIllegalWords : Prop :=
  (∀ (s t : State) (w : Word), s.offers w → step s = .next t →
    ((t.rspValid = true ∧ t.rspFault = true) ↔ 4 < lowByte w)) ∧
  (∀ (s : State) (w : Word) (m : Memory), s.offers w → 4 < lowByte w → ∃ t,
    step s = .next t ∧ step { s with buf := m } = .next { t with buf := m })

/-- R90: the fault's entry: the response bits, the idle engine, no buffer request, R holding a free value the host cannot
read, the earlier response gone; nothing else saved or changed but the acceptance latches and the model's own record. -/
def Obligations.IllegalCommandEntry : Prop :=
  ∀ (s : State) (w : Word), s.offers w → 4 < lowByte w → ∃ t k m, step s = .next t ∧
    t = { s with
      r := Config.freeR k, rspFault := true, rspValid := true, busy := false, bufReq := false
      opr := fieldOP w, a := fieldA w, b := fieldB w, c := fieldC w
      faults := s.faults + 1, draws := m } ∧
    cmdReady t = true ∧ readFault t = .ok true ∧ readCrc t = .error .noDefinedValue

/-- R91: there is nothing to return from: after a fault response a word is accepted as after any response, and a legal
command served by the buffer responds with its value and the fault indication gone. -/
def Obligations.FaultNotSticky : Prop :=
  ∀ (s t : State) (w w' : Word) (i : Instr), s.offers w → 4 < lowByte w → step s = .next t →
    Memory.wf s.buf → decode w' = .command i → s.serves i → ∃ u,
    step (offer w' t) = .next u ∧ readFault u = .ok false ∧ readCrc u = .ok (result (Memory.bytes s.buf) i)

/-- R83: none of the five operations raises an exception, for any operand values, in any state: a command goes to a next
state, holds no fault response there and adds nothing to the model's record of faults. -/
def Obligations.NoExceptionFromCommands : Prop :=
  ∀ (i : Instr) (s : State), ∃ t, exec i s = .next t ∧ t.faults = s.faults ∧
    ¬(t.rspValid = true ∧ t.rspFault = true)

/-- R16: `cmd_ready` is 1 exactly when `busy` = 0 and `rst` = 0; and no command reads a status bit: what it does is the same
whatever they held, a legal word's or an illegal one's. -/
def Obligations.StatusBitsNotOperands : Prop :=
  (∀ s : State, cmdReady s = true ↔ s.busy = false ∧ s.rst = false) ∧
  (∀ (i : Instr) (s : State) (b v f : Bool),
    exec i { s with busy := b, rspValid := v, rspFault := f } = exec i s) ∧
  (∀ (w : Word) (s : State) (b v f : Bool),
    endIllegal w { s with busy := b, rspValid := v, rspFault := f } = endIllegal w s)

/-- 60_exceptions.md section 7: another requester's command in between, with its own buffer on the port, changes no
response: a command answers as it would alone. -/
def Obligations.RequesterIndependence : Prop :=
  ∀ (i j : Instr) (s t : State) (vs ws : List Byte), exec j (serve ws s) = .next t → t.busy = false →
    (serve vs s).serves i → ∃ u v, exec i (serve vs s) = .next u ∧ exec i (serve vs t) = .next v ∧
      readCrc u = readCrc v ∧ readFault u = readFault v

/-- 10_state.md section 9: from the idle phase the engine leaves only by accepting the offered word; a command in progress
keeps its opcode and operands; and the busy phase ends only in a response or in reset. -/
def Obligations.PhaseTransitions : Prop :=
  (∀ s t : State, s.rst = false → s.busy = false → step s = .next t →
    (s.cmdValid = false ∧ t = s) ∨
    (s.cmdValid = true ∧ t.opr = fieldOP s.cmd ∧ t.a = fieldA s.cmd ∧ t.b = fieldB s.cmd ∧ t.c = fieldC s.cmd)) ∧
  (∀ s t : State, s.rst = false → s.busy = true → step s = .next t → t.busy = true →
    t.opr = s.opr ∧ t.a = s.a ∧ t.b = s.b ∧ t.c = s.c ∧ t.rspValid = s.rspValid) ∧
  (∀ s t : State, s.busy = true → step s = .next t → t.busy = false →
    (s.rst = true ∧ t.rspValid = false) ∨ (s.rst = false ∧ t.rspValid = true))

/-- 70_reset_and_hazards.md section 4: a final state holds its response and itself; a busy state is never final; and every
served command's run ends in one, once the host offers nothing further. -/
def Obligations.FinalStateHolds : Prop :=
  (∀ s : State, s.final → step s = .next s ∧ cmdReady s = true ∧ readFault s = .ok s.rspFault) ∧
  (∀ s : State, s.busy = true → ¬s.final) ∧
  (∀ (i : Instr) (s : State), Memory.wf s.buf → s.serves i → s.rst = false → ∃ t, exec i s = .next t ∧
    (withdraw t).final)

/-- 70_reset_and_hazards.md section 4: where a run ends, the engine is idle, nothing is offered, reset is released and every
line has its entry in the record; and where its last line drove a command or a word, the state is final: a response is held.
(That a line's entry stands for its name is the model's choice, log entry 14.) -/
def Obligations.RunEndsFinal : Prop :=
  ∀ (lines : List Line) (env env' : Bindings) (s t : State), runLines lines env s = .next (env', t) →
    t.busy = false ∧ t.cmdValid = false ∧ t.rst = false ∧ env'.length = env.length + lines.length ∧
    ∀ line, lines.getLast? = some line → line ≠ .reset → line.drive env'.dropLast s ≠ none → t.final

/-- 70_reset_and_hazards.md sections 1 and 4, 95_test_vectors.md P4: a run at a stuck engine neither ends nor goes on to a
further line, which is not accepted and whose buffer is not served; only reset lets it go on, from the reset state.
That the host waits there, so that the run stops in `Fault.stuck` (DEDUCED), and that the reset line's name is bound to none
(DESIGN CHOICE) are the model's own choices (log entry 14; that a step of a stuck engine is `Fault.stuck`: log entry 4). -/
def Obligations.StuckRunStops : Prop :=
  ∀ (env : Bindings) (s : State), s.stuck →
    runLines [] env s = .fault .stuck ∧
    (∀ (line : Line) (rest : List Line), line ≠ .reset → runLines (line :: rest) env s = .fault .stuck) ∧
    (∀ rest : List Line, runLines (.reset :: rest) env s =
      runLines rest (env ++ [none]) (resetEngine (setReset true (withdraw s))))

/-- 30_encoding.md section 6 (a line's number stands for its name: the model's choice, log entry 14): a name stands for the
response it is bound to, in every operand, the count and the buffer of a fold among them; a line whose command the buffer
serves is executed and binds its result, and the lines go on from there; a line that drives nothing, an unbound name in it,
takes no step and binds none (the model's choice, log entry 14). -/
def Obligations.LinesRunInOrder : Prop :=
  (∀ (env : Bindings) (j : Nat) (v : Byte), env[j]? = some (some v) → (Arg.bound j).value env = some v) ∧
  (∀ (env : Bindings) (x y z : Arg) (a b c : Byte), x.value env = some a → y.value env = some b → z.value env = some c →
    (Line.referenceStep x y).cmdWord env = some (encode (.referenceStep a b)) ∧
    (Line.fastStep x y).cmdWord env = some (encode (.fastStep a b)) ∧
    (Line.combine2 x y).cmdWord env = some (encode (.combine2 a b)) ∧
    (Line.combine3 x y z).cmdWord env = some (encode (.combine3 a b c)) ∧
    ∀ (xs : List Arg) (vs : List Byte), xs.map (fun x => x.value env) = vs.map some →
      ∀ s : State, (Line.foldN x xs y).drive env s = some (offer (encode (.foldN a b)) (setReset false (serve vs s)))) ∧
  (∀ (env : Bindings) (line : Line) (rest : List Line) (s v : State) (i : Instr), s.busy = false →
    line.command env = some i → line.drive env s = some v → Memory.wf v.buf → v.serves i →
    ∃ t, exec i v = .next t ∧
      runLines (line :: rest) env s = runLines rest (env ++ [some (result (Memory.bytes v.buf) i)]) t) ∧
  (∀ (env : Bindings) (line : Line) (rest : List Line) (s : State), s.busy = false → line.drive env s = none →
    runLines (line :: rest) env s = runLines rest (env ++ [none]) (setReset false (withdraw s)))

/-- R98: the outcome of an accepted word is exactly one of a response with the rule's value, the fault, and stuck; there is
no fourth, and no refusal. -/
def Obligations.OutcomeTrichotomy : Prop :=
  ∀ (s : State) (w : Word), Memory.wf s.buf → s.offers w → ∃ t, step s = .next t ∧
    (((∃ i, decode w = .command i ∧ s.serves i ∧ t.r = result (Memory.bytes s.buf) i) ∧
        t.busy = false ∧ t.rspValid = true ∧ t.rspFault = false) ∨
      ((∃ why, decode w = .illegal why) ∧ t.busy = false ∧ t.rspValid = true ∧ t.rspFault = true) ∨
      ((∃ crc n, decode w = .command (.foldN crc n) ∧ Memory.len s.buf < n.toNat) ∧
        t.busy = true ∧ t.rspValid = false ∧ step t = .fault .stuck))

/-- R24: what the host sees of a command depends on the command word, the build's constants and, for a fold, the first n
bytes of the buffer: two states that agree on these give the same outputs, whatever else they hold. -/
def Obligations.NoHiddenState : Prop :=
  ∀ (s s' : State) (w : Word), s.Inv → s'.Inv → s.offers w → s'.offers w →
    (∀ crc n, decode w = .command (.foldN crc n) →
      ∀ j : Nat, j < n.toNat → Memory.read s.buf j = Memory.read s'.buf j) →
    ∃ t t', step s = .next t ∧ step s' = .next t' ∧ sameOutputs t t'

/-- R10, R25 (log entry 9 for the granularity, from which the bound of 256 comes): the small-step sequencing refines the atomic transition: from a command's acceptance the busy engine's own
transitions reach, in at most 256 of them, exactly the state the atomic transition gives, and until then it is busy with no
response held. -/
def Obligations.SmallStepsReachAtomicResult : Prop :=
  ∀ (i : Instr) (s : State), s.rst = false → ∃ k : Nat, k ≤ 256 ∧
    Host.Core.run Sys2Proof.core k (begin i s) = exec i s ∧
    ∀ j : Nat, j < k → ∃ u, Host.Core.run Sys2Proof.core j (begin i s) = .next u ∧
      u.busy = true ∧ u.rspValid = false

/-- 70_reset_and_hazards.md section 5: every busy engine whose reads are answered reaches its response after finitely many
transitions, in every state that keeps the sequencing invariant. The spec gives no count: the bound of 256 is the model's own
choice, from the granularity of its sequencing, and so is the response of a busy engine with OPR above 4 (log entry 9). -/
def Obligations.BusyEngineResponds : Prop :=
  ∀ s : State, s.Inv → s.busy = true → s.rst = false → (s.opr = 2 → s.b.toNat ≤ Memory.len s.buf) →
    ∃ (k : Nat) (t : State), k ≤ 256 ∧ Host.Core.run Sys2Proof.core k s = .next t ∧
      t.busy = false ∧ t.rspValid = true

/-- R15: the byte index starts at 0 in every fold, advances by exactly 1 for each byte and cannot wrap: in every state that
keeps the invariant a requested index is below the count, so at most 254. The bit counter starts at 8 and each shift takes
exactly 1 from it. -/
def Obligations.IndexNeverWraps : Prop :=
  (∀ (c d : Byte) (s : State), (begin (.referenceStep c d) s).k.toNat = 8) ∧
  (∀ s t : State, s.Inv → s.busy = true → s.opr = 0 → s.rst = false → step s = .next t → t.busy = true →
    t.k.toNat + 1 = s.k.toNat ∧ s.k.toNat ≤ 8) ∧
  (∀ (crc n : Byte) (s : State), (begin (.foldN crc n) s).i = 0) ∧
  (∀ s : State, s.Inv → s.bufReq = true → s.i.toNat < s.b.toNat ∧ s.i.toNat ≤ 254) ∧
  (∀ s t : State, s.Inv → s.busy = true → s.opr = 2 → s.rst = false → step s = .next t → t.busy = true →
    t.i.toNat = s.i.toNat + 1 ∧ t.i.toNat ≤ t.b.toNat ∧ t.b = s.b)

/-- The sequencing invariant (`State.Inv`: R15, R20, R21, R22, R28, R73) is kept by every step from every state that has
it. -/
def Obligations.StepKeepsInvariant : Prop :=
  ∀ s t : State, s.Inv → step s = .next t → t.Inv

/-- The sequencing invariant holds at reset, and after what the host may drive between steps of an idle engine. -/
def Obligations.ResetMeetsInvariant : Prop :=
  State.reset.Inv ∧
  (∀ (s : State) (w : Word) (v : Bool), s.Inv → (offer w s).Inv ∧ (withdraw s).Inv ∧ (setReset v s).Inv) ∧
  (∀ (s : State) (vs : List Byte), s.Inv → (serve vs s).Inv)

/-! ## Reset -/

/-- R26: the values the spec gives for reset, and that nothing it leaves unspecified can be read. The free values that stand
in the unspecified registers are the model's choice (log entry 3), and the pins and the empty buffer too (5, 6). -/
def Obligations.ResetState : Prop :=
  State.reset.busy = false ∧ State.reset.rspValid = false ∧ State.reset.bufReq = false ∧
  cmdReady State.reset = true ∧
  readCrc State.reset = .error .noDefinedValue ∧ readFault State.reset = .error .noDefinedValue ∧
  readBufIdx State.reset = .error .noDefinedValue

/-- R99, R101 (that the model's own fault record stays, `t.faults = s.faults`, is no rule of the spec but the model's own
choice, DEDUCED from D20, log entry 8): an edge with `rst` = 1 enters the reset state whatever the block was doing: a command in progress is
abandoned with no response, an outstanding request dropped, a command offered at that edge not accepted; it stays there,
`cmd_ready` 0, while `rst` = 1; and without it a stuck engine has no transition. -/
def Obligations.ResetEdge : Prop :=
  (∀ s : State, s.rst = true → ∃ t, step s = .next t ∧
    t.busy = false ∧ t.rspValid = false ∧ t.bufReq = false ∧ cmdReady t = false ∧
    t.buf = s.buf ∧ t.cmdValid = s.cmdValid ∧ t.cmd = s.cmd ∧ t.rst = true ∧ t.faults = s.faults) ∧
  (∀ (s : State) (v : Bool) (w : Word), s.rst = true → ∃ t, step s = .next t ∧
    step { s with cmdValid := v, cmd := w } = .next { t with cmdValid := v, cmd := w }) ∧
  (∀ (s : State) (k : Nat), s.rst = true → ∃ t, Host.Core.run Sys2Proof.core (k + 1) s = .next t ∧
    t.busy = false ∧ t.rspValid = false ∧ t.bufReq = false ∧ cmdReady t = false) ∧
  (∀ s : State, s.stuck → s.rst = false → step s = .fault .stuck)

/-- R102: once `rst` is released after a reset edge the engine is idle and ready, and executes the first command it is
offered; so it is at `State.reset`. -/
def Obligations.FirstCommandAfterReset : Prop :=
  (∀ s t : State, s.rst = true → step s = .next t →
    (setReset false t).busy = false ∧ cmdReady (setReset false t) = true ∧
    ∀ (w : Word) (i : Instr), decode w = .command i →
      step (offer w (setReset false t)) = exec i (offer w (setReset false t))) ∧
  (∀ (w : Word) (i : Instr), decode w = .command i → step (offer w State.reset) = exec i (offer w State.reset))

/-- R27: the readings a model refuses: `rsp_crc` while no response is held or while its fault bit is set; and no other
reading of `rsp_crc` is refused. -/
def Obligations.UnspecifiedReadRefused : Prop :=
  ∀ s : State,
    (s.rspValid = false → readCrc s = .error .noDefinedValue ∧ readFault s = .error .noDefinedValue) ∧
    (s.rspFault = true → readCrc s = .error .noDefinedValue) ∧
    (s.bufReq = false → readBufIdx s = .error .noDefinedValue) ∧
    (s.rspValid = true → s.rspFault = false → readCrc s = .ok s.r)
end

