-- ==== Sys2Proof/Laws/Datapath.lean ====
section
/-! SUPPORT. The datapath's small lemmas: the bits of a shift, the table's entries, the fold one byte at a time. -/

namespace Sys2Proof.Machine

/-- R58, bit 0: the feedback gated by the polynomial's constant coefficient. -/
theorem shift1_bit_zero (p r : Byte) (b : Bool) :
    (shift1 p r b).getLsbD 0 = ((r.getLsbD 7 ^^ b) && p.getLsbD 0) := by
  unfold shift1
  split <;> simp_all

/-- R58, bits 1 to 7: the bit below, with the feedback gated by the polynomial's coefficient. -/
theorem shift1_bit_succ (p r : Byte) (b : Bool) (j : Nat) (h : j < 7) :
    (shift1 p r b).getLsbD (j + 1) = (r.getLsbD j ^^ ((r.getLsbD 7 ^^ b) && p.getLsbD (j + 1))) := by
  have hj : j + 1 < 8 := by omega
  unfold shift1
  split <;> simp_all [BitVec.getLsbD_shiftLeft, -BitVec.getLsbD_eq_getElem]

/-- R58: the data bit enters only through its XOR with bit 7. -/
theorem shift1_linear (p r r' : Byte) (b b' : Bool) :
    shift1 p (r ^^^ r') (b ^^ b') = shift1 p r b ^^^ shift1 p r' b' := by
  apply BitVec.eq_of_getLsbD_eq
  intro j hj
  cases j with
  | zero =>
    simp only [BitVec.getLsbD_xor, shift1_bit_zero]
    cases r.getLsbD 7 <;> cases r'.getLsbD 7 <;> cases b <;> cases b' <;> cases p.getLsbD 0 <;> rfl
  | succ j =>
    have h : j < 7 := by omega
    simp only [BitVec.getLsbD_xor, shift1_bit_succ _ _ _ j h]
    cases r.getLsbD j <;> cases r'.getLsbD j <;> cases r.getLsbD 7 <;> cases r'.getLsbD 7 <;> cases b <;>
      cases b' <;> cases p.getLsbD (j + 1) <;> rfl

/-- R58: a register shifted with its own bit 7 as the data bit has no feedback. -/
theorem shift1_self (p d : Byte) : shift1 p d (d.getLsbD 7) = d <<< 1 := by simp [shift1]

/-- R60's reason: a data byte folded into the register before the shift gives the feedback it gives when its bit 7 is shifted
in; what remains of it is the byte shifted by one. -/
theorem shift1_absorb (p r d : Byte) :
    shift1 p (r ^^^ d) false = shift1 p r (d.getLsbD 7) ^^^ d <<< 1 := by
  have h := shift1_linear p r d (d.getLsbD 7) (d.getLsbD 7)
  rw [shift1_self, Bool.xor_self] at h
  exact h

/-- R63: the entry of the table at an index. -/
theorem tableAt_eq (p i : Byte) : tableAt p i = refStep p 0 i := by
  simp [tableAt, table]

/-- R64: the fast step is the reference step of the XOR from 0x00. -/
theorem fastStep_eq_tableAt (p c d : Byte) : fastStep p c d = tableAt p (c ^^^ d) := rfl

/-- R72: no byte folded. -/
@[simp] theorem fold_zero (p c : Byte) (vs : List Byte) : fold p c vs 0 = c := by simp [fold]

/-- R72: the first byte folded, then the rest from there. -/
theorem fold_cons (p c v : Byte) (vs : List Byte) (n : Nat) :
    fold p c (v :: vs) (n + 1) = fold p (fastStep p c v) vs n := by simp [fold]

end Sys2Proof.Machine
end

