-- ==== Sys2Proof/Laws/Encoding.lean ====
section
/-! SUPPORT. The fields of a word as numbers, the fields of a word made of its fields, and the word remade of them (R45). -/

namespace Sys2Proof

theorem fieldOP_toNat (w : Word) : (fieldOP w).toNat = w.toNat % 8 := by
  simp [fieldOP, BitVec.extractLsb'_toNat]

theorem fieldZ_toNat (w : Word) : (fieldZ w).toNat = w.toNat / 8 % 32 := by
  simp [fieldZ, BitVec.extractLsb'_toNat, Nat.shiftRight_eq_div_pow]

theorem fieldA_toNat (w : Word) : (fieldA w).toNat = w.toNat / 256 % 256 := by
  simp [fieldA, BitVec.extractLsb'_toNat, Nat.shiftRight_eq_div_pow]

theorem fieldB_toNat (w : Word) : (fieldB w).toNat = w.toNat / 65536 % 256 := by
  simp [fieldB, BitVec.extractLsb'_toNat, Nat.shiftRight_eq_div_pow]

theorem fieldC_toNat (w : Word) : (fieldC w).toNat = w.toNat / 16777216 % 256 := by
  simp [fieldC, BitVec.extractLsb'_toNat, Nat.shiftRight_eq_div_pow]

/-- R45: the word as an integer. -/
theorem wordOfFields_toNat (c b a : Byte) (z : BitVec 5) (op : BitVec 3) :
    (wordOfFields c b a z op).toNat =
      c.toNat * 2 ^ 24 + b.toNat * 2 ^ 16 + a.toNat * 2 ^ 8 + z.toNat * 2 ^ 3 + op.toNat := by
  have hc := c.isLt
  have hb := b.isLt
  have ha := a.isLt
  have hz := z.isLt
  have ho := op.isLt
  rw [wordOfFields, BitVec.toNat_ofNat, Nat.mod_eq_of_lt]
  omega

section Fields
variable (c b a : Byte) (z : BitVec 5) (op : BitVec 3)

@[simp] theorem fieldOP_wordOfFields : fieldOP (wordOfFields c b a z op) = op := by
  apply BitVec.eq_of_toNat_eq
  have ho := op.isLt
  rw [fieldOP_toNat, wordOfFields_toNat]; omega

@[simp] theorem fieldZ_wordOfFields : fieldZ (wordOfFields c b a z op) = z := by
  apply BitVec.eq_of_toNat_eq
  have hz := z.isLt
  have ho := op.isLt
  rw [fieldZ_toNat, wordOfFields_toNat]; omega

@[simp] theorem fieldA_wordOfFields : fieldA (wordOfFields c b a z op) = a := by
  apply BitVec.eq_of_toNat_eq
  have ha := a.isLt
  have hz := z.isLt
  have ho := op.isLt
  rw [fieldA_toNat, wordOfFields_toNat]; omega

@[simp] theorem fieldB_wordOfFields : fieldB (wordOfFields c b a z op) = b := by
  apply BitVec.eq_of_toNat_eq
  have hb := b.isLt
  have ha := a.isLt
  have hz := z.isLt
  have ho := op.isLt
  rw [fieldB_toNat, wordOfFields_toNat]; omega

@[simp] theorem fieldC_wordOfFields : fieldC (wordOfFields c b a z op) = c := by
  apply BitVec.eq_of_toNat_eq
  have hc := c.isLt
  have hb := b.isLt
  have ha := a.isLt
  have hz := z.isLt
  have ho := op.isLt
  rw [fieldC_toNat, wordOfFields_toNat]; omega

end Fields

/-- R45: a word is made of its five fields. -/
theorem wordOfFields_fields (w : Word) :
    wordOfFields (fieldC w) (fieldB w) (fieldA w) (fieldZ w) (fieldOP w) = w := by
  apply BitVec.eq_of_toNat_eq
  have hw := w.isLt
  rw [wordOfFields_toNat, fieldC_toNat, fieldB_toNat, fieldA_toNat, fieldZ_toNat, fieldOP_toNat]
  omega

/-- R47: the low byte of a word, under the table's mask 0x000000FF. -/
theorem lowByte_toNat (w : Word) : lowByte w = w.toNat % 256 := by
  rw [lowByte, BitVec.toNat_and]
  exact Nat.and_two_pow_sub_one_eq_mod w.toNat 8

/-- R47: the low byte of a word is its fields Z and OP. -/
theorem lowByte_eq (w : Word) : lowByte w = (fieldZ w).toNat * 8 + (fieldOP w).toNat := by
  rw [lowByte_toNat, fieldZ_toNat, fieldOP_toNat]
  omega

end Sys2Proof
end

