-- ==== Sys2Proof/Laws/Memory.lean ====
section
/-! SUPPORT. The buffer: what a read gives, and that every operation that makes or keeps a buffer keeps its canonical form.
The engine never writes it (R30). -/

namespace Sys2Proof.Machine

theorem Memory.read_cellsFrom (vs : List Byte) (i j : Nat) :
    Memory.read (Memory.cellsFrom i vs) (i + j) = vs[j]? := by
  induction vs generalizing i j with
  | nil => simp [Memory.cellsFrom, Memory.read]
  | cons v vs ih =>
    cases j with
    | zero => simp [Memory.cellsFrom, Memory.read]
    | succ j =>
      have h := ih (i + 1) j
      rw [Nat.add_assoc, Nat.add_comm 1 j] at h
      simp [Memory.cellsFrom, Memory.read, h]

/-- R29: what a served buffer reads as: BUF[i] below `len`, no byte from `len` on. -/
theorem Memory.read_ofBytes (vs : List Byte) (i : Nat) :
    Memory.read (Memory.ofBytes vs) i = vs[i]? := by
  simpa [Memory.ofBytes] using Memory.read_cellsFrom vs 0 i

theorem Memory.cellsFrom_fst (vs : List Byte) (i : Nat) :
    (Memory.cellsFrom i vs).map Prod.fst = List.range' i vs.length := by
  induction vs generalizing i with
  | nil => rfl
  | cons v vs ih => simp [Memory.cellsFrom, ih, List.range'_succ]

theorem Memory.cellsFrom_snd (vs : List Byte) (i : Nat) :
    (Memory.cellsFrom i vs).map Prod.snd = vs := by
  induction vs generalizing i with
  | nil => rfl
  | cons v vs ih => simp [Memory.cellsFrom, ih]

@[simp] theorem Memory.bytes_ofBytes (vs : List Byte) : Memory.bytes (Memory.ofBytes vs) = vs :=
  Memory.cellsFrom_snd vs 0

@[simp] theorem Memory.len_ofBytes (vs : List Byte) : Memory.len (Memory.ofBytes vs) = vs.length := by
  have h := congrArg List.length (Memory.bytes_ofBytes vs)
  simpa [Memory.bytes, Memory.len] using h

@[simp] theorem Memory.length_bytes (m : Memory) : (Memory.bytes m).length = Memory.len m := by
  simp [Memory.bytes, Memory.len]

/-- The one operation that makes a buffer gives the canonical form. -/
theorem Memory.wf_ofBytes (vs : List Byte) : Memory.wf (Memory.ofBytes vs) := by
  have h : (Memory.ofBytes vs).length = vs.length := Memory.len_ofBytes vs
  rw [Memory.wf, h, List.range_eq_range']
  exact Memory.cellsFrom_fst vs 0

theorem Memory.eq_cellsFrom (m : Memory) (i : Nat) (h : m.map Prod.fst = List.range' i m.length) :
    m = Memory.cellsFrom i (Memory.bytes m) := by
  induction m generalizing i with
  | nil => rfl
  | cons p m ih =>
    obtain ⟨j, v⟩ := p
    simp only [List.map_cons, List.length_cons, List.range'_succ, List.cons.injEq] at h
    simp only [Memory.bytes, List.map_cons, Memory.cellsFrom, List.cons.injEq]
    exact ⟨by rw [h.1], ih (i + 1) h.2⟩

/-- A buffer in canonical form is the one its bytes make: equal buffers are equal lists. -/
theorem Memory.ofBytes_bytes (m : Memory) (h : Memory.wf m) : Memory.ofBytes (Memory.bytes m) = m :=
  (Memory.eq_cellsFrom m 0 (by rw [← List.range_eq_range']; exact h)).symm

/-- R29: a read of a canonical buffer, through its bytes. -/
theorem Memory.read_of_wf (m : Memory) (h : Memory.wf m) (i : Nat) :
    Memory.read m i = (Memory.bytes m)[i]? := by
  conv => lhs; rw [← Memory.ofBytes_bytes m h]
  exact Memory.read_ofBytes _ i

/-- R29: a canonical buffer answers exactly the indices below `len`. -/
theorem Memory.read_isSome_iff (m : Memory) (h : Memory.wf m) (i : Nat) :
    (Memory.read m i).isSome = true ↔ i < Memory.len m := by
  rw [Memory.read_of_wf m h, ← Memory.length_bytes]
  simp

/-- The host's `serve` leaves the canonical form. -/
theorem serve_wf (vs : List Byte) (s : State) : Memory.wf (serve vs s).buf := Memory.wf_ofBytes vs

/-- Reset's buffer is canonical: it lists nothing. -/
theorem reset_wf : Memory.wf State.reset.buf := by decide

end Sys2Proof.Machine
end

