-- ==== Sys2Proof/Laws/Fold.lean ====
section
/-! SUPPORT. What the reads of a fold end at: all the bytes when the buffer holds them, the end of the buffer when it does
not (R73, R77), whatever the buffer is at most the count. -/

namespace Sys2Proof.Machine

theorem memRead_of_wf (s : State) (h : Memory.wf s.buf) (i : Byte) :
    memRead s i = (Memory.bytes s.buf)[i.toNat]? := Memory.read_of_wf s.buf h i.toNat

theorem toNat_add_one (i : Byte) (h : i.toNat + 1 < 256) : (i + 1).toNat = i.toNat + 1 := by
  rw [BitVec.toNat_add]
  exact Nat.mod_eq_of_lt h

theorem drop_eq_cons_of_memRead (s : State) (h : Memory.wf s.buf) (i v : Byte) (hv : memRead s i = some v) :
    (Memory.bytes s.buf).drop i.toNat = v :: (Memory.bytes s.buf).drop (i.toNat + 1) := by
  rw [memRead_of_wf s h] at hv
  obtain ⟨hl, hv⟩ := List.getElem?_eq_some_iff.mp hv
  rw [List.drop_eq_getElem_cons hl, hv]

/-- R73: where every read is admitted, the index has advanced by the number of bytes and the register has folded them. -/
theorem foldReads_served (s : State) (h : Memory.wf s.buf) (m : Nat) (i r : Byte)
    (hm : i.toNat + m ≤ Memory.len s.buf) (hb : i.toNat + m < 256) :
    foldReads s m i r = (i + BitVec.ofNat 8 m, fold poly r ((Memory.bytes s.buf).drop i.toNat) m) := by
  induction m generalizing i r with
  | zero => simp [foldReads]
  | succ m ih =>
    have hs : (memRead s i).isSome = true :=
      (Memory.read_isSome_iff s.buf h i.toNat).mpr (by omega)
    obtain ⟨v, hv⟩ := Option.isSome_iff_exists.mp hs
    have hi : (i + 1).toNat = i.toNat + 1 := toNat_add_one i (by omega)
    rw [foldReads, hv, drop_eq_cons_of_memRead s h i v hv, fold_cons]
    simp only
    rw [ih (i + 1) (fastStep poly r v) (by omega) (by omega), hi]
    congr 1
    apply BitVec.eq_of_toNat_eq
    rw [BitVec.toNat_add (i + 1), hi, BitVec.toNat_add i]
    simp only [BitVec.toNat_ofNat]
    omega

/-- R77: where the buffer ends first, the index is its length and the register has folded the bytes there were. -/
theorem foldReads_short (s : State) (h : Memory.wf s.buf) (m : Nat) (i r : Byte)
    (hi : i.toNat ≤ Memory.len s.buf) (hm : Memory.len s.buf < i.toNat + m) (hb : i.toNat + m < 256) :
    foldReads s m i r =
      (BitVec.ofNat 8 (Memory.len s.buf),
        fold poly r ((Memory.bytes s.buf).drop i.toNat) (Memory.len s.buf - i.toNat)) := by
  induction m generalizing i r with
  | zero => omega
  | succ m ih =>
    cases hv : memRead s i with
    | none =>
      have hn : ¬ i.toNat < Memory.len s.buf := by
        rw [← Memory.read_isSome_iff s.buf h]
        rw [memRead] at hv
        simp [hv]
      have he : i.toNat = Memory.len s.buf := by omega
      rw [foldReads, hv, ← he]
      simp
    | some v =>
      have hlt : i.toNat < Memory.len s.buf := by
        rw [← Memory.read_isSome_iff s.buf h]
        rw [memRead] at hv
        simp [hv]
      have hi1 : (i + 1).toNat = i.toNat + 1 := toNat_add_one i (by omega)
      obtain ⟨k, hk⟩ : ∃ k, Memory.len s.buf - i.toNat = k + 1 := ⟨Memory.len s.buf - i.toNat - 1, by omega⟩
      rw [foldReads, hv, hk, drop_eq_cons_of_memRead s h i v hv, fold_cons]
      simp only
      rw [ih (i + 1) (fastStep poly r v) (by omega) (by omega) (by omega), hi1]
      congr 2
      omega

/-- R37: whatever the buffer, no index beyond the count is reached. -/
theorem foldReads_index_le (s : State) (m : Nat) (i r : Byte) (hb : i.toNat + m < 256) :
    (foldReads s m i r).1.toNat ≤ i.toNat + m := by
  induction m generalizing i r with
  | zero => simp [foldReads]
  | succ m ih =>
    rw [foldReads]
    split
    · next v _ =>
      have hi := toNat_add_one i (by omega)
      have h := ih (i + 1) (fastStep poly r v) (by omega)
      omega
    · simp

/-- R74: a fold of a served buffer from its first byte. -/
theorem foldReads_from_zero (s : State) (h : Memory.wf s.buf) (n r : Byte) (hn : n.toNat ≤ Memory.len s.buf) :
    foldReads s n.toNat 0 r = (n, fold poly r (Memory.bytes s.buf) n.toNat) := by
  have hlt := n.isLt
  rw [foldReads_served s h n.toNat 0 r (by simpa using hn) (by simpa using hlt)]
  simp

end Sys2Proof.Machine
end

