-- ==== Sys2Proof/Laws/PerInstr.lean ====
section
/-! SUPPORT. One law for every command: its canonical word is legal and canonical, and its opcode field is the command's
(R47, R54). -/

namespace Sys2Proof.Laws.LegalWord

/-- R54: the word of a command is well formed and names the command's opcode. -/
def Statement (i : Instr) : Prop :=
  i.wf = true ∧ canonicalWord (encode i) = true ∧ fieldOP (encode i) = i.opcode

theorem referenceStep (crc data : Byte) : Statement (.referenceStep crc data) := by
  simp [Statement, Instr.wf, Instr.opcode, canonicalWord, legalWord, encode, lowByte_eq]

theorem fastStep (crc data : Byte) : Statement (.fastStep crc data) := by
  simp [Statement, Instr.wf, Instr.opcode, canonicalWord, legalWord, encode, lowByte_eq]

theorem foldN (crc n : Byte) : Statement (.foldN crc n) := by
  simp [Statement, Instr.wf, Instr.opcode, canonicalWord, legalWord, encode, lowByte_eq]

theorem combine2 (data1 data2 : Byte) : Statement (.combine2 data1 data2) := by
  simp [Statement, Instr.wf, Instr.opcode, canonicalWord, legalWord, encode, lowByte_eq]

theorem combine3 (data1 data2 data3 : Byte) : Statement (.combine3 data1 data2 data3) := by
  simp [Statement, Instr.wf, Instr.opcode, canonicalWord, legalWord, encode, lowByte_eq]

end Sys2Proof.Laws.LegalWord
end

