-- ==== Sys2Proof/Laws/State.lean ====
section
/-! SUPPORT. One lemma for each field under each named update of the state: what the update writes there, or that it leaves
the field alone. All by definition; later proofs rewrite with them and never unfold a record. -/

namespace Sys2Proof.Machine

section MarkAcceptedFields
variable (s : State)

@[simp] theorem markAccepted_r : (markAccepted s).r = s.r := rfl
@[simp] theorem markAccepted_busy : (markAccepted s).busy = true := rfl
@[simp] theorem markAccepted_rspValid : (markAccepted s).rspValid = false := rfl
@[simp] theorem markAccepted_rspFault : (markAccepted s).rspFault = Config.freeRspFault s.draws := rfl
@[simp] theorem markAccepted_bufReq : (markAccepted s).bufReq = s.bufReq := rfl
@[simp] theorem markAccepted_opr : (markAccepted s).opr = s.opr := rfl
@[simp] theorem markAccepted_a : (markAccepted s).a = s.a := rfl
@[simp] theorem markAccepted_b : (markAccepted s).b = s.b := rfl
@[simp] theorem markAccepted_c : (markAccepted s).c = s.c := rfl
@[simp] theorem markAccepted_d : (markAccepted s).d = s.d := rfl
@[simp] theorem markAccepted_k : (markAccepted s).k = s.k := rfl
@[simp] theorem markAccepted_i : (markAccepted s).i = s.i := rfl
@[simp] theorem markAccepted_rst : (markAccepted s).rst = s.rst := rfl
@[simp] theorem markAccepted_cmdValid : (markAccepted s).cmdValid = s.cmdValid := rfl
@[simp] theorem markAccepted_cmd : (markAccepted s).cmd = s.cmd := rfl
@[simp] theorem markAccepted_buf : (markAccepted s).buf = s.buf := rfl
@[simp] theorem markAccepted_faults : (markAccepted s).faults = s.faults := rfl
@[simp] theorem markAccepted_draws : (markAccepted s).draws = s.draws + 1 := rfl

end MarkAcceptedFields

section MarkRespondedFields
variable (f : Bool) (s : State)

@[simp] theorem markResponded_r : (markResponded f s).r = s.r := rfl
@[simp] theorem markResponded_busy : (markResponded f s).busy = false := rfl
@[simp] theorem markResponded_rspValid : (markResponded f s).rspValid = true := rfl
@[simp] theorem markResponded_rspFault : (markResponded f s).rspFault = f := rfl
@[simp] theorem markResponded_bufReq : (markResponded f s).bufReq = s.bufReq := rfl
@[simp] theorem markResponded_opr : (markResponded f s).opr = s.opr := rfl
@[simp] theorem markResponded_a : (markResponded f s).a = s.a := rfl
@[simp] theorem markResponded_b : (markResponded f s).b = s.b := rfl
@[simp] theorem markResponded_c : (markResponded f s).c = s.c := rfl
@[simp] theorem markResponded_d : (markResponded f s).d = s.d := rfl
@[simp] theorem markResponded_k : (markResponded f s).k = s.k := rfl
@[simp] theorem markResponded_i : (markResponded f s).i = s.i := rfl
@[simp] theorem markResponded_rst : (markResponded f s).rst = s.rst := rfl
@[simp] theorem markResponded_cmdValid : (markResponded f s).cmdValid = s.cmdValid := rfl
@[simp] theorem markResponded_cmd : (markResponded f s).cmd = s.cmd := rfl
@[simp] theorem markResponded_buf : (markResponded f s).buf = s.buf := rfl
@[simp] theorem markResponded_faults : (markResponded f s).faults = s.faults := rfl
@[simp] theorem markResponded_draws : (markResponded f s).draws = s.draws := rfl

end MarkRespondedFields

section LatchFields
variable (op : BitVec 3) (x y z : Byte) (s : State)

@[simp] theorem latch_r : (latch op x y z s).r = s.r := rfl
@[simp] theorem latch_busy : (latch op x y z s).busy = s.busy := rfl
@[simp] theorem latch_rspValid : (latch op x y z s).rspValid = s.rspValid := rfl
@[simp] theorem latch_rspFault : (latch op x y z s).rspFault = s.rspFault := rfl
@[simp] theorem latch_bufReq : (latch op x y z s).bufReq = s.bufReq := rfl
@[simp] theorem latch_opr : (latch op x y z s).opr = op := rfl
@[simp] theorem latch_a : (latch op x y z s).a = x := rfl
@[simp] theorem latch_b : (latch op x y z s).b = y := rfl
@[simp] theorem latch_c : (latch op x y z s).c = z := rfl
@[simp] theorem latch_d : (latch op x y z s).d = s.d := rfl
@[simp] theorem latch_k : (latch op x y z s).k = s.k := rfl
@[simp] theorem latch_i : (latch op x y z s).i = s.i := rfl
@[simp] theorem latch_rst : (latch op x y z s).rst = s.rst := rfl
@[simp] theorem latch_cmdValid : (latch op x y z s).cmdValid = s.cmdValid := rfl
@[simp] theorem latch_cmd : (latch op x y z s).cmd = s.cmd := rfl
@[simp] theorem latch_buf : (latch op x y z s).buf = s.buf := rfl
@[simp] theorem latch_faults : (latch op x y z s).faults = s.faults := rfl
@[simp] theorem latch_draws : (latch op x y z s).draws = s.draws := rfl

end LatchFields

section AcceptFields
variable (op : BitVec 3) (x y z : Byte) (s : State)

@[simp] theorem accept_r : (accept op x y z s).r = s.r := rfl
@[simp] theorem accept_busy : (accept op x y z s).busy = true := rfl
@[simp] theorem accept_rspValid : (accept op x y z s).rspValid = false := rfl
@[simp] theorem accept_rspFault : (accept op x y z s).rspFault = Config.freeRspFault s.draws := rfl
@[simp] theorem accept_bufReq : (accept op x y z s).bufReq = s.bufReq := rfl
@[simp] theorem accept_opr : (accept op x y z s).opr = op := rfl
@[simp] theorem accept_a : (accept op x y z s).a = x := rfl
@[simp] theorem accept_b : (accept op x y z s).b = y := rfl
@[simp] theorem accept_c : (accept op x y z s).c = z := rfl
@[simp] theorem accept_d : (accept op x y z s).d = s.d := rfl
@[simp] theorem accept_k : (accept op x y z s).k = s.k := rfl
@[simp] theorem accept_i : (accept op x y z s).i = s.i := rfl
@[simp] theorem accept_rst : (accept op x y z s).rst = s.rst := rfl
@[simp] theorem accept_cmdValid : (accept op x y z s).cmdValid = s.cmdValid := rfl
@[simp] theorem accept_cmd : (accept op x y z s).cmd = s.cmd := rfl
@[simp] theorem accept_buf : (accept op x y z s).buf = s.buf := rfl
@[simp] theorem accept_faults : (accept op x y z s).faults = s.faults := rfl
@[simp] theorem accept_draws : (accept op x y z s).draws = s.draws + 1 := rfl

end AcceptFields

section AcceptWordFields
variable (w : Word) (s : State)

@[simp] theorem acceptWord_r : (acceptWord w s).r = s.r := rfl
@[simp] theorem acceptWord_busy : (acceptWord w s).busy = true := rfl
@[simp] theorem acceptWord_rspValid : (acceptWord w s).rspValid = false := rfl
@[simp] theorem acceptWord_rspFault : (acceptWord w s).rspFault = Config.freeRspFault s.draws := rfl
@[simp] theorem acceptWord_bufReq : (acceptWord w s).bufReq = s.bufReq := rfl
@[simp] theorem acceptWord_opr : (acceptWord w s).opr = fieldOP w := rfl
@[simp] theorem acceptWord_a : (acceptWord w s).a = fieldA w := rfl
@[simp] theorem acceptWord_b : (acceptWord w s).b = fieldB w := rfl
@[simp] theorem acceptWord_c : (acceptWord w s).c = fieldC w := rfl
@[simp] theorem acceptWord_d : (acceptWord w s).d = s.d := rfl
@[simp] theorem acceptWord_k : (acceptWord w s).k = s.k := rfl
@[simp] theorem acceptWord_i : (acceptWord w s).i = s.i := rfl
@[simp] theorem acceptWord_rst : (acceptWord w s).rst = s.rst := rfl
@[simp] theorem acceptWord_cmdValid : (acceptWord w s).cmdValid = s.cmdValid := rfl
@[simp] theorem acceptWord_cmd : (acceptWord w s).cmd = s.cmd := rfl
@[simp] theorem acceptWord_buf : (acceptWord w s).buf = s.buf := rfl
@[simp] theorem acceptWord_faults : (acceptWord w s).faults = s.faults := rfl
@[simp] theorem acceptWord_draws : (acceptWord w s).draws = s.draws + 1 := rfl

end AcceptWordFields

section WriteRFields
variable (v : Byte) (s : State)

@[simp] theorem writeR_r : (writeR v s).r = v := rfl
@[simp] theorem writeR_busy : (writeR v s).busy = s.busy := rfl
@[simp] theorem writeR_rspValid : (writeR v s).rspValid = s.rspValid := rfl
@[simp] theorem writeR_rspFault : (writeR v s).rspFault = s.rspFault := rfl
@[simp] theorem writeR_bufReq : (writeR v s).bufReq = s.bufReq := rfl
@[simp] theorem writeR_opr : (writeR v s).opr = s.opr := rfl
@[simp] theorem writeR_a : (writeR v s).a = s.a := rfl
@[simp] theorem writeR_b : (writeR v s).b = s.b := rfl
@[simp] theorem writeR_c : (writeR v s).c = s.c := rfl
@[simp] theorem writeR_d : (writeR v s).d = s.d := rfl
@[simp] theorem writeR_k : (writeR v s).k = s.k := rfl
@[simp] theorem writeR_i : (writeR v s).i = s.i := rfl
@[simp] theorem writeR_rst : (writeR v s).rst = s.rst := rfl
@[simp] theorem writeR_cmdValid : (writeR v s).cmdValid = s.cmdValid := rfl
@[simp] theorem writeR_cmd : (writeR v s).cmd = s.cmd := rfl
@[simp] theorem writeR_buf : (writeR v s).buf = s.buf := rfl
@[simp] theorem writeR_faults : (writeR v s).faults = s.faults := rfl
@[simp] theorem writeR_draws : (writeR v s).draws = s.draws := rfl

end WriteRFields

section SetShifterFields
variable (x : Byte) (y : BitVec 4) (s : State)

@[simp] theorem setShifter_r : (setShifter x y s).r = s.r := rfl
@[simp] theorem setShifter_busy : (setShifter x y s).busy = s.busy := rfl
@[simp] theorem setShifter_rspValid : (setShifter x y s).rspValid = s.rspValid := rfl
@[simp] theorem setShifter_rspFault : (setShifter x y s).rspFault = s.rspFault := rfl
@[simp] theorem setShifter_bufReq : (setShifter x y s).bufReq = s.bufReq := rfl
@[simp] theorem setShifter_opr : (setShifter x y s).opr = s.opr := rfl
@[simp] theorem setShifter_a : (setShifter x y s).a = s.a := rfl
@[simp] theorem setShifter_b : (setShifter x y s).b = s.b := rfl
@[simp] theorem setShifter_c : (setShifter x y s).c = s.c := rfl
@[simp] theorem setShifter_d : (setShifter x y s).d = x := rfl
@[simp] theorem setShifter_k : (setShifter x y s).k = y := rfl
@[simp] theorem setShifter_i : (setShifter x y s).i = s.i := rfl
@[simp] theorem setShifter_rst : (setShifter x y s).rst = s.rst := rfl
@[simp] theorem setShifter_cmdValid : (setShifter x y s).cmdValid = s.cmdValid := rfl
@[simp] theorem setShifter_cmd : (setShifter x y s).cmd = s.cmd := rfl
@[simp] theorem setShifter_buf : (setShifter x y s).buf = s.buf := rfl
@[simp] theorem setShifter_faults : (setShifter x y s).faults = s.faults := rfl
@[simp] theorem setShifter_draws : (setShifter x y s).draws = s.draws := rfl

end SetShifterFields

section SetIndexFields
variable (j : Byte) (q : Bool) (s : State)

@[simp] theorem setIndex_r : (setIndex j q s).r = s.r := rfl
@[simp] theorem setIndex_busy : (setIndex j q s).busy = s.busy := rfl
@[simp] theorem setIndex_rspValid : (setIndex j q s).rspValid = s.rspValid := rfl
@[simp] theorem setIndex_rspFault : (setIndex j q s).rspFault = s.rspFault := rfl
@[simp] theorem setIndex_bufReq : (setIndex j q s).bufReq = q := rfl
@[simp] theorem setIndex_opr : (setIndex j q s).opr = s.opr := rfl
@[simp] theorem setIndex_a : (setIndex j q s).a = s.a := rfl
@[simp] theorem setIndex_b : (setIndex j q s).b = s.b := rfl
@[simp] theorem setIndex_c : (setIndex j q s).c = s.c := rfl
@[simp] theorem setIndex_d : (setIndex j q s).d = s.d := rfl
@[simp] theorem setIndex_k : (setIndex j q s).k = s.k := rfl
@[simp] theorem setIndex_i : (setIndex j q s).i = j := rfl
@[simp] theorem setIndex_rst : (setIndex j q s).rst = s.rst := rfl
@[simp] theorem setIndex_cmdValid : (setIndex j q s).cmdValid = s.cmdValid := rfl
@[simp] theorem setIndex_cmd : (setIndex j q s).cmd = s.cmd := rfl
@[simp] theorem setIndex_buf : (setIndex j q s).buf = s.buf := rfl
@[simp] theorem setIndex_faults : (setIndex j q s).faults = s.faults := rfl
@[simp] theorem setIndex_draws : (setIndex j q s).draws = s.draws := rfl

end SetIndexFields

section RespondFields
variable (v : Byte) (s : State)

@[simp] theorem respond_r : (respond v s).r = v := rfl
@[simp] theorem respond_busy : (respond v s).busy = false := rfl
@[simp] theorem respond_rspValid : (respond v s).rspValid = true := rfl
@[simp] theorem respond_rspFault : (respond v s).rspFault = false := rfl
@[simp] theorem respond_bufReq : (respond v s).bufReq = s.bufReq := rfl
@[simp] theorem respond_opr : (respond v s).opr = s.opr := rfl
@[simp] theorem respond_a : (respond v s).a = s.a := rfl
@[simp] theorem respond_b : (respond v s).b = s.b := rfl
@[simp] theorem respond_c : (respond v s).c = s.c := rfl
@[simp] theorem respond_d : (respond v s).d = s.d := rfl
@[simp] theorem respond_k : (respond v s).k = s.k := rfl
@[simp] theorem respond_i : (respond v s).i = s.i := rfl
@[simp] theorem respond_rst : (respond v s).rst = s.rst := rfl
@[simp] theorem respond_cmdValid : (respond v s).cmdValid = s.cmdValid := rfl
@[simp] theorem respond_cmd : (respond v s).cmd = s.cmd := rfl
@[simp] theorem respond_buf : (respond v s).buf = s.buf := rfl
@[simp] theorem respond_faults : (respond v s).faults = s.faults := rfl
@[simp] theorem respond_draws : (respond v s).draws = s.draws := rfl

end RespondFields

section TakeIllegalCommandFields
variable (s : State)

@[simp] theorem takeIllegalCommand_r : (takeIllegalCommand s).r = Config.freeR s.draws := rfl
@[simp] theorem takeIllegalCommand_busy : (takeIllegalCommand s).busy = false := rfl
@[simp] theorem takeIllegalCommand_rspValid : (takeIllegalCommand s).rspValid = true := rfl
@[simp] theorem takeIllegalCommand_rspFault : (takeIllegalCommand s).rspFault = true := rfl
@[simp] theorem takeIllegalCommand_bufReq : (takeIllegalCommand s).bufReq = false := rfl
@[simp] theorem takeIllegalCommand_opr : (takeIllegalCommand s).opr = s.opr := rfl
@[simp] theorem takeIllegalCommand_a : (takeIllegalCommand s).a = s.a := rfl
@[simp] theorem takeIllegalCommand_b : (takeIllegalCommand s).b = s.b := rfl
@[simp] theorem takeIllegalCommand_c : (takeIllegalCommand s).c = s.c := rfl
@[simp] theorem takeIllegalCommand_d : (takeIllegalCommand s).d = s.d := rfl
@[simp] theorem takeIllegalCommand_k : (takeIllegalCommand s).k = s.k := rfl
@[simp] theorem takeIllegalCommand_i : (takeIllegalCommand s).i = s.i := rfl
@[simp] theorem takeIllegalCommand_rst : (takeIllegalCommand s).rst = s.rst := rfl
@[simp] theorem takeIllegalCommand_cmdValid : (takeIllegalCommand s).cmdValid = s.cmdValid := rfl
@[simp] theorem takeIllegalCommand_cmd : (takeIllegalCommand s).cmd = s.cmd := rfl
@[simp] theorem takeIllegalCommand_buf : (takeIllegalCommand s).buf = s.buf := rfl
@[simp] theorem takeIllegalCommand_faults : (takeIllegalCommand s).faults = s.faults + 1 := rfl
@[simp] theorem takeIllegalCommand_draws : (takeIllegalCommand s).draws = s.draws + 1 := rfl

end TakeIllegalCommandFields

section EndIllegalFields
variable (w : Word) (s : State)

@[simp] theorem endIllegal_r : (endIllegal w s).r = Config.freeR (s.draws + 1) := rfl
@[simp] theorem endIllegal_busy : (endIllegal w s).busy = false := rfl
@[simp] theorem endIllegal_rspValid : (endIllegal w s).rspValid = true := rfl
@[simp] theorem endIllegal_rspFault : (endIllegal w s).rspFault = true := rfl
@[simp] theorem endIllegal_bufReq : (endIllegal w s).bufReq = false := rfl
@[simp] theorem endIllegal_opr : (endIllegal w s).opr = fieldOP w := rfl
@[simp] theorem endIllegal_a : (endIllegal w s).a = fieldA w := rfl
@[simp] theorem endIllegal_b : (endIllegal w s).b = fieldB w := rfl
@[simp] theorem endIllegal_c : (endIllegal w s).c = fieldC w := rfl
@[simp] theorem endIllegal_d : (endIllegal w s).d = s.d := rfl
@[simp] theorem endIllegal_k : (endIllegal w s).k = s.k := rfl
@[simp] theorem endIllegal_i : (endIllegal w s).i = s.i := rfl
@[simp] theorem endIllegal_rst : (endIllegal w s).rst = s.rst := rfl
@[simp] theorem endIllegal_cmdValid : (endIllegal w s).cmdValid = s.cmdValid := rfl
@[simp] theorem endIllegal_cmd : (endIllegal w s).cmd = s.cmd := rfl
@[simp] theorem endIllegal_buf : (endIllegal w s).buf = s.buf := rfl
@[simp] theorem endIllegal_faults : (endIllegal w s).faults = s.faults + 1 := rfl
@[simp] theorem endIllegal_draws : (endIllegal w s).draws = s.draws + 1 + 1 := rfl

end EndIllegalFields

section AwaitByteFields
variable (j v : Byte) (s : State)

@[simp] theorem awaitByte_r : (awaitByte j v s).r = v := rfl
@[simp] theorem awaitByte_busy : (awaitByte j v s).busy = s.busy := rfl
@[simp] theorem awaitByte_rspValid : (awaitByte j v s).rspValid = s.rspValid := rfl
@[simp] theorem awaitByte_rspFault : (awaitByte j v s).rspFault = s.rspFault := rfl
@[simp] theorem awaitByte_bufReq : (awaitByte j v s).bufReq = true := rfl
@[simp] theorem awaitByte_opr : (awaitByte j v s).opr = s.opr := rfl
@[simp] theorem awaitByte_a : (awaitByte j v s).a = s.a := rfl
@[simp] theorem awaitByte_b : (awaitByte j v s).b = s.b := rfl
@[simp] theorem awaitByte_c : (awaitByte j v s).c = s.c := rfl
@[simp] theorem awaitByte_d : (awaitByte j v s).d = s.d := rfl
@[simp] theorem awaitByte_k : (awaitByte j v s).k = s.k := rfl
@[simp] theorem awaitByte_i : (awaitByte j v s).i = j := rfl
@[simp] theorem awaitByte_rst : (awaitByte j v s).rst = s.rst := rfl
@[simp] theorem awaitByte_cmdValid : (awaitByte j v s).cmdValid = s.cmdValid := rfl
@[simp] theorem awaitByte_cmd : (awaitByte j v s).cmd = s.cmd := rfl
@[simp] theorem awaitByte_buf : (awaitByte j v s).buf = s.buf := rfl
@[simp] theorem awaitByte_faults : (awaitByte j v s).faults = s.faults := rfl
@[simp] theorem awaitByte_draws : (awaitByte j v s).draws = s.draws := rfl

end AwaitByteFields

section ResetEngineFields
variable (s : State)

@[simp] theorem resetEngine_r : (resetEngine s).r = Config.freeR s.draws := rfl
@[simp] theorem resetEngine_busy : (resetEngine s).busy = false := rfl
@[simp] theorem resetEngine_rspValid : (resetEngine s).rspValid = false := rfl
@[simp] theorem resetEngine_rspFault : (resetEngine s).rspFault = Config.freeRspFault s.draws := rfl
@[simp] theorem resetEngine_bufReq : (resetEngine s).bufReq = false := rfl
@[simp] theorem resetEngine_opr : (resetEngine s).opr = Config.freeOpr s.draws := rfl
@[simp] theorem resetEngine_a : (resetEngine s).a = Config.freeA s.draws := rfl
@[simp] theorem resetEngine_b : (resetEngine s).b = Config.freeB s.draws := rfl
@[simp] theorem resetEngine_c : (resetEngine s).c = Config.freeC s.draws := rfl
@[simp] theorem resetEngine_d : (resetEngine s).d = Config.freeD s.draws := rfl
@[simp] theorem resetEngine_k : (resetEngine s).k = Config.freeK s.draws := rfl
@[simp] theorem resetEngine_i : (resetEngine s).i = Config.freeI s.draws := rfl
@[simp] theorem resetEngine_rst : (resetEngine s).rst = s.rst := rfl
@[simp] theorem resetEngine_cmdValid : (resetEngine s).cmdValid = s.cmdValid := rfl
@[simp] theorem resetEngine_cmd : (resetEngine s).cmd = s.cmd := rfl
@[simp] theorem resetEngine_buf : (resetEngine s).buf = s.buf := rfl
@[simp] theorem resetEngine_faults : (resetEngine s).faults = s.faults := rfl
@[simp] theorem resetEngine_draws : (resetEngine s).draws = s.draws + 1 := rfl

end ResetEngineFields

section ShiftOnceFields
variable (s : State)

@[simp] theorem shiftOnce_r : (shiftOnce s).r = shift1 poly s.r (s.d.getLsbD 7) := rfl
@[simp] theorem shiftOnce_busy : (shiftOnce s).busy = s.busy := rfl
@[simp] theorem shiftOnce_rspValid : (shiftOnce s).rspValid = s.rspValid := rfl
@[simp] theorem shiftOnce_rspFault : (shiftOnce s).rspFault = s.rspFault := rfl
@[simp] theorem shiftOnce_bufReq : (shiftOnce s).bufReq = s.bufReq := rfl
@[simp] theorem shiftOnce_opr : (shiftOnce s).opr = s.opr := rfl
@[simp] theorem shiftOnce_a : (shiftOnce s).a = s.a := rfl
@[simp] theorem shiftOnce_b : (shiftOnce s).b = s.b := rfl
@[simp] theorem shiftOnce_c : (shiftOnce s).c = s.c := rfl
@[simp] theorem shiftOnce_d : (shiftOnce s).d = s.d <<< 1 := rfl
@[simp] theorem shiftOnce_k : (shiftOnce s).k = s.k - 1 := rfl
@[simp] theorem shiftOnce_i : (shiftOnce s).i = s.i := rfl
@[simp] theorem shiftOnce_rst : (shiftOnce s).rst = s.rst := rfl
@[simp] theorem shiftOnce_cmdValid : (shiftOnce s).cmdValid = s.cmdValid := rfl
@[simp] theorem shiftOnce_cmd : (shiftOnce s).cmd = s.cmd := rfl
@[simp] theorem shiftOnce_buf : (shiftOnce s).buf = s.buf := rfl
@[simp] theorem shiftOnce_faults : (shiftOnce s).faults = s.faults := rfl
@[simp] theorem shiftOnce_draws : (shiftOnce s).draws = s.draws := rfl

end ShiftOnceFields

section FoldOnceFields
variable (v : Byte) (s : State)

@[simp] theorem foldOnce_r : (foldOnce v s).r = fastStep poly s.r v := rfl
@[simp] theorem foldOnce_busy : (foldOnce v s).busy = s.busy := rfl
@[simp] theorem foldOnce_rspValid : (foldOnce v s).rspValid = s.rspValid := rfl
@[simp] theorem foldOnce_rspFault : (foldOnce v s).rspFault = s.rspFault := rfl
@[simp] theorem foldOnce_bufReq : (foldOnce v s).bufReq = decide (s.i + 1 ≠ s.b) := rfl
@[simp] theorem foldOnce_opr : (foldOnce v s).opr = s.opr := rfl
@[simp] theorem foldOnce_a : (foldOnce v s).a = s.a := rfl
@[simp] theorem foldOnce_b : (foldOnce v s).b = s.b := rfl
@[simp] theorem foldOnce_c : (foldOnce v s).c = s.c := rfl
@[simp] theorem foldOnce_d : (foldOnce v s).d = s.d := rfl
@[simp] theorem foldOnce_k : (foldOnce v s).k = s.k := rfl
@[simp] theorem foldOnce_i : (foldOnce v s).i = s.i + 1 := rfl
@[simp] theorem foldOnce_rst : (foldOnce v s).rst = s.rst := rfl
@[simp] theorem foldOnce_cmdValid : (foldOnce v s).cmdValid = s.cmdValid := rfl
@[simp] theorem foldOnce_cmd : (foldOnce v s).cmd = s.cmd := rfl
@[simp] theorem foldOnce_buf : (foldOnce v s).buf = s.buf := rfl
@[simp] theorem foldOnce_faults : (foldOnce v s).faults = s.faults := rfl
@[simp] theorem foldOnce_draws : (foldOnce v s).draws = s.draws := rfl

end FoldOnceFields

section OfferFields
variable (w : Word) (s : State)

@[simp] theorem offer_r : (offer w s).r = s.r := rfl
@[simp] theorem offer_busy : (offer w s).busy = s.busy := rfl
@[simp] theorem offer_rspValid : (offer w s).rspValid = s.rspValid := rfl
@[simp] theorem offer_rspFault : (offer w s).rspFault = s.rspFault := rfl
@[simp] theorem offer_bufReq : (offer w s).bufReq = s.bufReq := rfl
@[simp] theorem offer_opr : (offer w s).opr = s.opr := rfl
@[simp] theorem offer_a : (offer w s).a = s.a := rfl
@[simp] theorem offer_b : (offer w s).b = s.b := rfl
@[simp] theorem offer_c : (offer w s).c = s.c := rfl
@[simp] theorem offer_d : (offer w s).d = s.d := rfl
@[simp] theorem offer_k : (offer w s).k = s.k := rfl
@[simp] theorem offer_i : (offer w s).i = s.i := rfl
@[simp] theorem offer_rst : (offer w s).rst = s.rst := rfl
@[simp] theorem offer_cmdValid : (offer w s).cmdValid = true := rfl
@[simp] theorem offer_cmd : (offer w s).cmd = w := rfl
@[simp] theorem offer_buf : (offer w s).buf = s.buf := rfl
@[simp] theorem offer_faults : (offer w s).faults = s.faults := rfl
@[simp] theorem offer_draws : (offer w s).draws = s.draws := rfl

end OfferFields

section WithdrawFields
variable (s : State)

@[simp] theorem withdraw_r : (withdraw s).r = s.r := rfl
@[simp] theorem withdraw_busy : (withdraw s).busy = s.busy := rfl
@[simp] theorem withdraw_rspValid : (withdraw s).rspValid = s.rspValid := rfl
@[simp] theorem withdraw_rspFault : (withdraw s).rspFault = s.rspFault := rfl
@[simp] theorem withdraw_bufReq : (withdraw s).bufReq = s.bufReq := rfl
@[simp] theorem withdraw_opr : (withdraw s).opr = s.opr := rfl
@[simp] theorem withdraw_a : (withdraw s).a = s.a := rfl
@[simp] theorem withdraw_b : (withdraw s).b = s.b := rfl
@[simp] theorem withdraw_c : (withdraw s).c = s.c := rfl
@[simp] theorem withdraw_d : (withdraw s).d = s.d := rfl
@[simp] theorem withdraw_k : (withdraw s).k = s.k := rfl
@[simp] theorem withdraw_i : (withdraw s).i = s.i := rfl
@[simp] theorem withdraw_rst : (withdraw s).rst = s.rst := rfl
@[simp] theorem withdraw_cmdValid : (withdraw s).cmdValid = false := rfl
@[simp] theorem withdraw_cmd : (withdraw s).cmd = s.cmd := rfl
@[simp] theorem withdraw_buf : (withdraw s).buf = s.buf := rfl
@[simp] theorem withdraw_faults : (withdraw s).faults = s.faults := rfl
@[simp] theorem withdraw_draws : (withdraw s).draws = s.draws := rfl

end WithdrawFields

section ServeFields
variable (vs : List Byte) (s : State)

@[simp] theorem serve_r : (serve vs s).r = s.r := rfl
@[simp] theorem serve_busy : (serve vs s).busy = s.busy := rfl
@[simp] theorem serve_rspValid : (serve vs s).rspValid = s.rspValid := rfl
@[simp] theorem serve_rspFault : (serve vs s).rspFault = s.rspFault := rfl
@[simp] theorem serve_bufReq : (serve vs s).bufReq = s.bufReq := rfl
@[simp] theorem serve_opr : (serve vs s).opr = s.opr := rfl
@[simp] theorem serve_a : (serve vs s).a = s.a := rfl
@[simp] theorem serve_b : (serve vs s).b = s.b := rfl
@[simp] theorem serve_c : (serve vs s).c = s.c := rfl
@[simp] theorem serve_d : (serve vs s).d = s.d := rfl
@[simp] theorem serve_k : (serve vs s).k = s.k := rfl
@[simp] theorem serve_i : (serve vs s).i = s.i := rfl
@[simp] theorem serve_rst : (serve vs s).rst = s.rst := rfl
@[simp] theorem serve_cmdValid : (serve vs s).cmdValid = s.cmdValid := rfl
@[simp] theorem serve_cmd : (serve vs s).cmd = s.cmd := rfl
@[simp] theorem serve_buf : (serve vs s).buf = Memory.ofBytes vs := rfl
@[simp] theorem serve_faults : (serve vs s).faults = s.faults := rfl
@[simp] theorem serve_draws : (serve vs s).draws = s.draws := rfl

end ServeFields

section SetResetFields
variable (v : Bool) (s : State)

@[simp] theorem setReset_r : (setReset v s).r = s.r := rfl
@[simp] theorem setReset_busy : (setReset v s).busy = s.busy := rfl
@[simp] theorem setReset_rspValid : (setReset v s).rspValid = s.rspValid := rfl
@[simp] theorem setReset_rspFault : (setReset v s).rspFault = s.rspFault := rfl
@[simp] theorem setReset_bufReq : (setReset v s).bufReq = s.bufReq := rfl
@[simp] theorem setReset_opr : (setReset v s).opr = s.opr := rfl
@[simp] theorem setReset_a : (setReset v s).a = s.a := rfl
@[simp] theorem setReset_b : (setReset v s).b = s.b := rfl
@[simp] theorem setReset_c : (setReset v s).c = s.c := rfl
@[simp] theorem setReset_d : (setReset v s).d = s.d := rfl
@[simp] theorem setReset_k : (setReset v s).k = s.k := rfl
@[simp] theorem setReset_i : (setReset v s).i = s.i := rfl
@[simp] theorem setReset_rst : (setReset v s).rst = v := rfl
@[simp] theorem setReset_cmdValid : (setReset v s).cmdValid = s.cmdValid := rfl
@[simp] theorem setReset_cmd : (setReset v s).cmd = s.cmd := rfl
@[simp] theorem setReset_buf : (setReset v s).buf = s.buf := rfl
@[simp] theorem setReset_faults : (setReset v s).faults = s.faults := rfl
@[simp] theorem setReset_draws : (setReset v s).draws = s.draws := rfl

end SetResetFields

end Sys2Proof.Machine
end

