-- ==== Sys2Proof/Laws/Step.lean ====
section
/-! SUPPORT. Everything a step, an engine transition and a command can do, said once. -/

namespace Sys2Proof.Machine

variable {s t : State}

/-- R20: a word is accepted exactly where the host offers one to a ready engine. -/
theorem offered_eq_some_iff (s : State) (w : Word) :
    offered s = some w ↔ s.cmdValid = true ∧ s.busy = false ∧ s.rst = false ∧ s.cmd = w := by
  unfold offered cmdReady
  cases s.cmdValid <;> cases s.busy <;> cases s.rst <;> simp

/-- What a step can do when it answers a next state. -/
theorem step_cases (h : step s = .next t) :
    (s.rst = true ∧ t = resetEngine s) ∨
    (s.rst = false ∧ s.busy = true ∧ tick s = some t) ∨
    (s.rst = false ∧ s.busy = false ∧ offered s = none ∧ t = s) ∨
    (∃ w i, s.offers w ∧ decode w = .command i ∧ exec i s = .next t) ∨
    (∃ w why, s.offers w ∧ decode w = .illegal why ∧ t = endIllegal w s) := by
  unfold step at h
  by_cases hr : s.rst = true
  · rw [if_pos hr] at h
    exact .inl ⟨hr, (Host.Outcome.next.inj h).symm⟩
  rw [if_neg hr] at h
  have hr' : s.rst = false := by simpa using hr
  by_cases hb : s.busy = true
  · rw [if_pos hb, advance] at h
    cases ht : tick s with
    | none => simp [ht] at h
    | some u =>
      simp only [ht, Host.Outcome.next.injEq] at h
      exact .inr (.inl ⟨hr', hb, by rw [h]⟩)
  rw [if_neg hb] at h
  have hb' : s.busy = false := by simpa using hb
  cases ho : offered s with
  | none =>
    simp only [ho, Host.Outcome.next.injEq] at h
    exact .inr (.inr (.inl ⟨hr', hb', rfl, h.symm⟩))
  | some w =>
    obtain ⟨hv, -, -, hw⟩ := (offered_eq_some_iff s w).mp ho
    simp only [ho] at h
    cases hd : decode w with
    | command i =>
      simp only [hd] at h
      exact .inr (.inr (.inr (.inl ⟨w, i, ⟨hb', hr', hv, hw⟩, hd, h⟩)))
    | illegal why =>
      simp only [hd, Host.Outcome.next.injEq] at h
      exact .inr (.inr (.inr (.inr ⟨w, why, ⟨hb', hr', hv, hw⟩, hd, h.symm⟩)))

/-- R25: what the engine transition of a command in progress can do. -/
theorem tick_cases (h : tick s = some t) :
    (∃ v, t = respond v s) ∨
    (s.opr = 0 ∧ s.k ≠ 0 ∧ t = shiftOnce s) ∨
    (∃ v, s.opr = 2 ∧ s.i ≠ s.b ∧ memRead s s.i = some v ∧ t = foldOnce v s) ∨
    (5 ≤ s.opr.toNat ∧ t = takeIllegalCommand s) := by
  unfold tick at h
  split at h
  · next ho =>
    split at h
    · exact .inl ⟨s.r, (Option.some.inj h).symm⟩
    · next hk => exact .inr (.inl ⟨BitVec.eq_of_toNat_eq ho, hk, (Option.some.inj h).symm⟩)
  · exact .inl ⟨_, (Option.some.inj h).symm⟩
  · next ho =>
    split at h
    · exact .inl ⟨s.r, (Option.some.inj h).symm⟩
    · next hk =>
      obtain ⟨v, hv, ht⟩ := Option.map_eq_some_iff.mp h
      exact .inr (.inr (.inl ⟨v, BitVec.eq_of_toNat_eq ho, hk, hv, ht.symm⟩))
  · exact .inl ⟨_, (Option.some.inj h).symm⟩
  · exact .inl ⟨_, (Option.some.inj h).symm⟩
  · next h0 h1 h2 h3 h4 =>
    have h5 : 5 ≤ s.opr.toNat := by
      by_contra hlt
      have : s.opr.toNat = 0 ∨ s.opr.toNat = 1 ∨ s.opr.toNat = 2 ∨ s.opr.toNat = 3 ∨ s.opr.toNat = 4 := by omega
      rcases this with e | e | e | e | e
      exacts [h0 e, h1 e, h2 e, h3 e, h4 e]
    exact .inr (.inr (.inr ⟨h5, (Option.some.inj h).symm⟩))

/-- R98: every command answers a next state: it responds, or it is a fold that waits for a byte the host does not hold. -/
theorem exec_cases (h : exec i s = .next t) :
    (t.busy = false ∧ t.rspValid = true ∧ t.rspFault = false) ∨
    (∃ crc n, i = .foldN crc n ∧ (foldReads s n.toNat 0 crc).1 ≠ n ∧
      t = awaitByte (foldReads s n.toNat 0 crc).1 (foldReads s n.toNat 0 crc).2 (accept 2 crc n (unusedC s) s)) := by
  cases i with
  | foldN crc n =>
    simp only [exec, execFoldN] at h
    split at h
    · obtain rfl := Host.Outcome.next.inj h
      exact .inl ⟨rfl, rfl, rfl⟩
    · next hn =>
      exact .inr ⟨crc, n, rfl, hn, (Host.Outcome.next.inj h).symm⟩
  | referenceStep crc data => obtain rfl := Host.Outcome.next.inj h; exact .inl ⟨rfl, rfl, rfl⟩
  | fastStep crc data => obtain rfl := Host.Outcome.next.inj h; exact .inl ⟨rfl, rfl, rfl⟩
  | combine2 x y => obtain rfl := Host.Outcome.next.inj h; exact .inl ⟨rfl, rfl, rfl⟩
  | combine3 x y z => obtain rfl := Host.Outcome.next.inj h; exact .inl ⟨rfl, rfl, rfl⟩

/-- R30, R19: a command leaves the host's pins, its buffer and the model's fault record alone. -/
theorem exec_keeps_host (h : exec i s = .next t) :
    t.buf = s.buf ∧ t.rst = s.rst ∧ t.cmdValid = s.cmdValid ∧ t.cmd = s.cmd ∧ t.faults = s.faults := by
  cases i with
  | foldN crc n =>
    simp only [exec, execFoldN] at h
    split at h <;> obtain rfl := Host.Outcome.next.inj h <;> exact ⟨rfl, rfl, rfl, rfl, rfl⟩
  | referenceStep crc data => obtain rfl := Host.Outcome.next.inj h; exact ⟨rfl, rfl, rfl, rfl, rfl⟩
  | fastStep crc data => obtain rfl := Host.Outcome.next.inj h; exact ⟨rfl, rfl, rfl, rfl, rfl⟩
  | combine2 x y => obtain rfl := Host.Outcome.next.inj h; exact ⟨rfl, rfl, rfl, rfl, rfl⟩
  | combine3 x y z => obtain rfl := Host.Outcome.next.inj h; exact ⟨rfl, rfl, rfl, rfl, rfl⟩

/-- R21: a command that responds asks for no byte, unless it found a request it does not touch. -/
theorem exec_bufReq (h : exec i s = .next t) (hb : t.busy = false) : t.bufReq = true → s.bufReq = true := by
  cases i with
  | foldN crc n =>
    simp only [exec, execFoldN] at h
    split at h <;> obtain rfl := Host.Outcome.next.inj h
    · intro hq; exact absurd hq (by simp)
    · exact absurd hb (by simp)
  | referenceStep crc data => obtain rfl := Host.Outcome.next.inj h; exact id
  | fastStep crc data => obtain rfl := Host.Outcome.next.inj h; exact id
  | combine2 x y => obtain rfl := Host.Outcome.next.inj h; exact id
  | combine3 x y z => obtain rfl := Host.Outcome.next.inj h; exact id

/-- A busy engine out of reset makes its one enabled transition. -/
theorem step_of_tick (hr : s.rst = false) (hb : s.busy = true) (h : tick s = some t) : step s = .next t := by
  simp [step, hr, hb, advance, h]

/-- R87: with no enabled transition it is stuck. -/
theorem step_of_tick_none (hr : s.rst = false) (hb : s.busy = true) (h : tick s = none) : step s = .fault .stuck := by
  simp [step, hr, hb, advance, h]

/-- A run of no step. -/
theorem run_zero (s : State) : Host.Core.run Sys2Proof.core 0 s = .next s := rfl

/-- A run that starts with a step that answers a next state. -/
theorem run_succ_of_next (k : Nat) (h : step s = .next t) :
    Host.Core.run Sys2Proof.core (k + 1) s = Host.Core.run Sys2Proof.core k t := by
  have e : Sys2Proof.core.step s = .next t := h
  simp only [Host.Core.run, e]

/-- A run that starts with a step that faults. -/
theorem run_succ_of_fault (k : Nat) (x : Fault) (h : step s = .fault x) :
    Host.Core.run Sys2Proof.core (k + 1) s = .fault x := by
  have e : Sys2Proof.core.step s = .fault x := h
  simp only [Host.Core.run, e]

end Sys2Proof.Machine
end

