-- ==== Sys2Proof/Laws/Program.lean ====
section
/-! SUPPORT. What waiting for an idle engine does, and that 256 transitions are enough from every state (R111, R112). -/

namespace Sys2Proof.Machine

variable {s t : State}

/-- R71, R112: a bound on the transitions a busy engine has before it. -/
def transitionsLeft (s : State) : Nat :=
  if s.busy = false then 0
  else if s.opr = 0 then s.k.toNat + 1
  else if s.opr = 2 then (s.b - s.i).toNat + 1
  else 1

/-- An idle engine has none. -/
theorem transitionsLeft_idle (h : s.busy = false) : transitionsLeft s = 0 := if_pos h

/-- A busy engine has one at least: its response, or the wait for a byte. -/
theorem transitionsLeft_pos (h : s.busy = true) : 0 < transitionsLeft s := by
  unfold transitionsLeft
  rw [if_neg (by simp [h])]
  split
  · exact Nat.succ_pos _
  · split <;> exact Nat.succ_pos _

/-- No state has more than 256 transitions before it. -/
theorem transitionsLeft_le (s : State) : transitionsLeft s ≤ 256 := by
  have hk := s.k.isLt
  have hi := (s.b - s.i).isLt
  unfold transitionsLeft
  split
  · omega
  · split
    · omega
    · split <;> omega

/-- R59: a shift leaves one fewer. -/
theorem transitionsLeft_shiftOnce (hb : s.busy = true) (ho : s.opr = 0) (hk : s.k ≠ 0) :
    transitionsLeft (shiftOnce s) < transitionsLeft s := by
  have h0 : s.k.toNat ≠ 0 := fun e => hk (BitVec.eq_of_toNat_eq e)
  have hlt := s.k.isLt
  have e : (s.k - 1).toNat = s.k.toNat - 1 := by rw [BitVec.toNat_sub]; simp; omega
  simp only [transitionsLeft, shiftOnce_busy, shiftOnce_opr, shiftOnce_k, hb, ho, e]
  simp; omega

/-- R73: a byte of a fold leaves one fewer. -/
theorem transitionsLeft_foldOnce (v : Byte) (hb : s.busy = true) (ho : s.opr = 2) (hi : s.i ≠ s.b) :
    transitionsLeft (foldOnce v s) < transitionsLeft s := by
  have h0 : s.i.toNat ≠ s.b.toNat := fun e => hi (BitVec.eq_of_toNat_eq e)
  have hlt := s.i.isLt
  have hlt' := s.b.isLt
  have e : (s.b - (s.i + 1)).toNat + 1 = (s.b - s.i).toNat := by
    rw [BitVec.toNat_sub, BitVec.toNat_sub, BitVec.toNat_add]; simp; omega
  simp only [transitionsLeft, foldOnce_busy, foldOnce_opr, foldOnce_i, foldOnce_b, hb, ho, ← e]
  simp

/-- A step of a busy engine out of reset: it stays busy, with fewer transitions before it, or it holds a response; and the
host's pins stay. -/
theorem step_busy (hr : s.rst = false) (hb : s.busy = true) (h : step s = .next t) :
    t.rst = false ∧ t.cmdValid = s.cmdValid ∧ transitionsLeft t < transitionsLeft s ∧
    (t.busy = false → t.rspValid = true) := by
  have hpos := transitionsLeft_pos hb
  rcases step_cases h with ⟨h1, _⟩ | ⟨_, _, h'⟩ | ⟨_, h1, _⟩ | ⟨_, _, ho, _⟩ | ⟨_, _, ho, _⟩
  · simp [hr] at h1
  · rcases tick_cases h' with ⟨v, rfl⟩ | ⟨ho, hk, rfl⟩ | ⟨v, ho, hi, _, rfl⟩ | ⟨_, rfl⟩
    · exact ⟨hr, rfl, by rwa [transitionsLeft_idle (s := respond v s) rfl], fun _ => rfl⟩
    · exact ⟨hr, rfl, transitionsLeft_shiftOnce hb ho hk, fun h => by simp [hb] at h⟩
    · exact ⟨hr, rfl, transitionsLeft_foldOnce v hb ho hi, fun h => by simp [hb] at h⟩
    · exact ⟨hr, rfl, by rwa [transitionsLeft_idle (s := takeIllegalCommand s) rfl], fun _ => rfl⟩
  · simp [hb] at h1
  · have := ho.1; simp [hb] at this
  · have := ho.1; simp [hb] at this

/-- The host need not wait for an idle engine. -/
theorem awaitIdle_of_idle (k : Nat) (h : s.busy = false) : awaitIdle k s = .next s := by
  cases k <;> simp [awaitIdle, h]

/-- A stuck engine stops the wait. -/
theorem awaitIdle_of_fault (k : Nat) (x : Fault) (hb : s.busy = true) (h : step s = .fault x) :
    awaitIdle (k + 1) s = .fault x := by
  simp [awaitIdle, hb, h]

/-- R111, R112: where the wait answers a state, the engine is idle there and the host's pins are as it left them; and if it
was busy before, it holds a response. -/
theorem awaitIdle_idle (k : Nat) (hr : s.rst = false) (hk : transitionsLeft s ≤ k) (h : awaitIdle k s = .next t) :
    t.busy = false ∧ t.rst = false ∧ t.cmdValid = s.cmdValid ∧ (s.busy = true → t.rspValid = true) := by
  induction k generalizing s with
  | zero =>
    obtain rfl : s = t := Host.Outcome.next.inj h
    have hb : s.busy = false := by
      by_contra hb
      have := transitionsLeft_pos (s := s) (by simpa using hb)
      omega
    exact ⟨hb, hr, rfl, fun h => by simp [hb] at h⟩
  | succ k ih =>
    by_cases hb : s.busy = true
    · simp only [awaitIdle, hb, if_true] at h
      split at h
      · next u hu =>
        obtain ⟨h1, h2, h3, h4⟩ := step_busy hr hb hu
        obtain ⟨g1, g2, g3, g4⟩ := ih h1 (by omega) h
        refine ⟨g1, g2, g3.trans h2, fun _ => ?_⟩
        by_cases hub : u.busy = true
        · exact g4 hub
        · have hub' : u.busy = false := by simpa using hub
          rw [awaitIdle_of_idle k hub'] at h
          obtain rfl := Host.Outcome.next.inj h
          exact h4 hub'
      · cases h
      · cases h
    · have hb' : s.busy = false := by simpa using hb
      rw [awaitIdle_of_idle _ hb'] at h
      obtain rfl := Host.Outcome.next.inj h
      exact ⟨hb', hr, rfl, fun h => by simp [hb'] at h⟩

/-- R106: what the host drives for a line does not depend on what its pins held before. -/
theorem Line.drive_pins (env : Bindings) (line : Line) (s : State) :
    line.drive env (setReset false (withdraw s)) = line.drive env s := by
  cases line with
  | foldN crc buffer n =>
    simp only [Line.drive, Line.serving, Line.cmdWord]
    cases Arg.values env buffer <;> rfl
  | _ => rfl

end Sys2Proof.Machine
end

