-- ==== Sys2Proof/Tests/Slice0.lean ====
section
/-! SUPPORT. Tests: words written out from the encoding (30_encoding.md), the numbers of 95_test_vectors.md (V and P rows),
and one witness for the hypotheses of each statement. -/

namespace Sys2Proof.Tests

open Sys2Proof Sys2Proof.Machine

/-! ## Decoding: field C, field B, field A, Z, OP written out bit by bit from R45 and R47 -/

theorem test_decode_reference_step :
    decode (0b00000000#8 ++ 0b00000001#8 ++ 0b11111111#8 ++ 0b00000#5 ++ 0b000#3) = .command (.referenceStep 0xFF 0x01) := by
  decide

theorem test_decode_fast_step :
    decode (0b00000000#8 ++ 0b00111100#8 ++ 0b10100101#8 ++ 0b00000#5 ++ 0b001#3) = .command (.fastStep 0xA5 0x3C) := by
  decide

theorem test_decode_fold_n :
    decode (0b00000000#8 ++ 0b00001001#8 ++ 0b11111111#8 ++ 0b00000#5 ++ 0b010#3) = .command (.foldN 0xFF 9) := by
  decide

theorem test_decode_combine_2 :
    decode (0b00000000#8 ++ 0b00000001#8 ++ 0b11000000#8 ++ 0b00000#5 ++ 0b011#3) = .command (.combine2 0xC0 0x01) := by
  decide

theorem test_decode_combine_3 :
    decode (0b00000011#8 ++ 0b00000010#8 ++ 0b00000001#8 ++ 0b00000#5 ++ 0b100#3) =
      .command (.combine3 0x01 0x02 0x03) := by
  decide

/-- V7: the unused byte C is ignored. -/
theorem test_decode_unused_c : decode 0xAB010000 = .command (.referenceStep 0x00 0x01) := by decide

/-- V7: OP = 5, 6, 7. -/
theorem test_decode_reserved_opcode :
    decode 0x00000005 = .illegal (.reservedOpcode 5) ∧ decode 0x00000006 = .illegal (.reservedOpcode 6) ∧
    decode 0x12345607 = .illegal (.reservedOpcode 7) := by decide

/-- V7: Z ≠ 0, also with a legal OP. -/
theorem test_decode_reserved_field :
    decode 0x00010008 = .illegal (.reservedField 1) ∧ decode 0x00010009 = .illegal (.reservedField 1) ∧
    decode 0x000000FC = .illegal (.reservedField 31) ∧ decode 0xFFFFFFFF = .illegal (.reservedField 31) := by decide

/-- The opcode table's words with nothing above their 8 fixed bits, and its nearest refused neighbour. -/
theorem test_decode_table_word :
    decodeTableWord 8 0x00 = some (.referenceStep 0 0) ∧ decodeTableWord 8 0x04 = some (.combine3 0 0 0) ∧
    decodeTableWord 8 0x05 = none ∧ decodeTableWord 32 0x0009FF02 = some (.foldN 0xFF 9) := by decide

/-- R35: a listing's four bytes, bits 7:0 first. -/
theorem test_word_of_listing : wordOfListing 0x01 0xA5 0x3C 0x00 = 0x003CA501 := by decide

/-! ## WellFormed: a word each check refuses, beside its nearest accepted one -/

theorem test_legal_word_opcode : legalWord 0x00000005 = false ∧ legalWord 0x00000004 = true := by decide

theorem test_legal_word_reserved : legalWord 0x00010008 = false ∧ legalWord 0x00010000 = true := by decide

theorem test_canonical_word :
    canonicalWord 0xAB010000 = false ∧ canonicalWord 0x00010000 = true ∧ canonicalWord 0xAB010004 = true ∧
    canonicalWord 0x00000005 = false := by decide

/-! ## The datapath -/

/-- V2, POLY = 0x93. -/
theorem test_shift1_93 :
    [shift1 0x93 0x00 false, shift1 0x93 0x00 true, shift1 0x93 0x80 false, shift1 0x93 0x80 true,
      shift1 0x93 0x7F false, shift1 0x93 0x7F true, shift1 0x93 0xFF true, shift1 0x93 0x93 false,
      shift1 0x93 0x93 true, shift1 0x93 0x49 true, shift1 0x93 0xC9 false, shift1 0x93 0x40 false] =
    [0x00, 0x93, 0x93, 0x00, 0xFE, 0x6D, 0xFE, 0xB5, 0x26, 0x01, 0x01, 0x80] := by decide

/-- V2, POLY = 0x07. -/
theorem test_shift1_07 :
    [shift1 0x07 0x80 false, shift1 0x07 0x7F true, shift1 0x07 0x93 false, shift1 0x07 0x49 true,
      shift1 0x07 0xC9 false] = [0x07, 0xF9, 0x21, 0x95, 0x95] := by decide

/-- V4 rows 1, 2, 4, 6, 8, 10, 13, 17, 19, 20. -/
theorem test_reference_step_93 :
    [refStep 0x93 0x00 0x00, refStep 0x93 0x00 0x01, refStep 0x93 0x00 0x80, refStep 0x93 0xFF 0x00,
      refStep 0x93 0xFF 0x01, refStep 0x93 0x93 0x00, refStep 0x93 0xA5 0x3C, refStep 0x93 0x12 0x34,
      refStep 0x93 0x10 0x01, refStep 0x93 0xBE 0x39] =
    [0x00, 0x93, 0x5C, 0x19, 0x8A, 0xB8, 0x6C, 0x5B, 0x51, 0x83] := by decide

/-- V8. -/
theorem test_reference_step_07 :
    [refStep 0x07 0x00 0x01, refStep 0x07 0xFF 0x00, refStep 0x07 0xA5 0x3C] = [0x07, 0xF3, 0xC6] := by decide

/-- V3, the whole table at POLY = 0x93. -/
theorem test_table_93 : table 0x93 =
    [0x00, 0x93, 0xB5, 0x26, 0xF9, 0x6A, 0x4C, 0xDF, 0x61, 0xF2, 0xD4, 0x47, 0x98, 0x0B, 0x2D, 0xBE] ++
    [0xC2, 0x51, 0x77, 0xE4, 0x3B, 0xA8, 0x8E, 0x1D, 0xA3, 0x30, 0x16, 0x85, 0x5A, 0xC9, 0xEF, 0x7C] ++
    [0x17, 0x84, 0xA2, 0x31, 0xEE, 0x7D, 0x5B, 0xC8, 0x76, 0xE5, 0xC3, 0x50, 0x8F, 0x1C, 0x3A, 0xA9] ++
    [0xD5, 0x46, 0x60, 0xF3, 0x2C, 0xBF, 0x99, 0x0A, 0xB4, 0x27, 0x01, 0x92, 0x4D, 0xDE, 0xF8, 0x6B] ++
    [0x2E, 0xBD, 0x9B, 0x08, 0xD7, 0x44, 0x62, 0xF1, 0x4F, 0xDC, 0xFA, 0x69, 0xB6, 0x25, 0x03, 0x90] ++
    [0xEC, 0x7F, 0x59, 0xCA, 0x15, 0x86, 0xA0, 0x33, 0x8D, 0x1E, 0x38, 0xAB, 0x74, 0xE7, 0xC1, 0x52] ++
    [0x39, 0xAA, 0x8C, 0x1F, 0xC0, 0x53, 0x75, 0xE6, 0x58, 0xCB, 0xED, 0x7E, 0xA1, 0x32, 0x14, 0x87] ++
    [0xFB, 0x68, 0x4E, 0xDD, 0x02, 0x91, 0xB7, 0x24, 0x9A, 0x09, 0x2F, 0xBC, 0x63, 0xF0, 0xD6, 0x45] ++
    [0x5C, 0xCF, 0xE9, 0x7A, 0xA5, 0x36, 0x10, 0x83, 0x3D, 0xAE, 0x88, 0x1B, 0xC4, 0x57, 0x71, 0xE2] ++
    [0x9E, 0x0D, 0x2B, 0xB8, 0x67, 0xF4, 0xD2, 0x41, 0xFF, 0x6C, 0x4A, 0xD9, 0x06, 0x95, 0xB3, 0x20] ++
    [0x4B, 0xD8, 0xFE, 0x6D, 0xB2, 0x21, 0x07, 0x94, 0x2A, 0xB9, 0x9F, 0x0C, 0xD3, 0x40, 0x66, 0xF5] ++
    [0x89, 0x1A, 0x3C, 0xAF, 0x70, 0xE3, 0xC5, 0x56, 0xE8, 0x7B, 0x5D, 0xCE, 0x11, 0x82, 0xA4, 0x37] ++
    [0x72, 0xE1, 0xC7, 0x54, 0x8B, 0x18, 0x3E, 0xAD, 0x13, 0x80, 0xA6, 0x35, 0xEA, 0x79, 0x5F, 0xCC] ++
    [0xB0, 0x23, 0x05, 0x96, 0x49, 0xDA, 0xFC, 0x6F, 0xD1, 0x42, 0x64, 0xF7, 0x28, 0xBB, 0x9D, 0x0E] ++
    [0x65, 0xF6, 0xD0, 0x43, 0x9C, 0x0F, 0x29, 0xBA, 0x04, 0x97, 0xB1, 0x22, 0xFD, 0x6E, 0x48, 0xDB] ++
    [0xA7, 0x34, 0x12, 0x81, 0x5E, 0xCD, 0xEB, 0x78, 0xC6, 0x55, 0x73, 0xE0, 0x3F, 0xAC, 0x8A, 0x19] := by
  decide +kernel

/-- V4 rows 13 and 18. -/
theorem test_fast_step_93 : fastStep 0x93 0xA5 0x3C = 0x6C ∧ fastStep 0x93 0x93 0x02 = 0x0D := by decide +kernel

/-- V5 rows 5, 6, 12, 13, 14 (its fourth byte is not read). -/
theorem test_fold_93 :
    fold 0x93 0x00 [0x01, 0x02] 2 = 0x0D ∧ fold 0x93 0x00 [0x02, 0x01] 2 = 0x70 ∧
    fold 0x93 0x00 [0x31, 0x32, 0x33, 0x34, 0x35, 0x36, 0x37, 0x38, 0x39] 9 = 0x83 ∧
    fold 0x93 0xFF [0x31, 0x32, 0x33, 0x34, 0x35, 0x36, 0x37, 0x38, 0x39] 9 = 0x80 ∧
    fold 0x93 0x00 [0x01, 0x02, 0x03, 0xEE] 3 = 0x2D := by decide +kernel

/-- V5 rows 16 and 18, the largest count; V8's check value at POLY = 0x07. -/
theorem test_fold_bounds :
    fold 0x93 0x00 ((List.range 255).map fun i => BitVec.ofNat 8 i) 255 = 0x4C ∧
    fold 0x93 0xFF ((List.range 255).map fun i => BitVec.ofNat 8 i) 255 = 0xB3 ∧
    fold 0x07 0x00 [0x31, 0x32, 0x33, 0x34, 0x35, 0x36, 0x37, 0x38, 0x39] 9 = 0xF4 := by decide +kernel

/-- V6 rows 2, 5 and 7, at both seeds. -/
theorem test_combine_93 :
    fastStep 0x93 (fastStep 0x93 0x00 0x02) 0x01 = 0x70 ∧ fastStep 0x93 (fastStep 0x93 0xFF 0x02) 0x01 = 0x40 ∧
    fastStep 0x93 (fastStep 0x93 0xFF 0xC0) 0x01 = 0xED ∧
    fastStep 0x93 (fastStep 0x93 (fastStep 0x93 0xFF 0x01) 0x02) 0x03 = 0xF8 := by decide +kernel

/-! ## The machine: one step on a small state -/

/-- An idle engine that holds a response, with a word offered and a buffer served. -/
def idle (w : Word) (buf : List Byte) : State :=
  { r := 0x93, busy := false, rspValid := true, rspFault := false, bufReq := false, opr := 1, a := 0, b := 1, c := 0
    d := 0, k := 0, i := 0, rst := false, cmdValid := true, cmd := w, buf := Memory.ofBytes buf, faults := 0, draws := 1 }

/-- An engine inside a fold of `n` bytes, at index `i`. -/
def folding (i n : Byte) (buf : List Byte) : State :=
  { idle 0x00010001 buf with busy := true, rspValid := false, bufReq := decide (i ≠ n), opr := 2, b := n, i := i }

/-- An engine inside a bit-serial step with `k` shifts left. -/
def shifting (r d : Byte) (k : BitVec 4) : State :=
  { idle 0x00000000 [] with r := r, busy := true, rspValid := false, opr := 0, d := d, k := k }

theorem folding_served_inv : (folding 0 1 [0x07]).Inv := by
  refine ⟨Memory.wf_ofBytes _, ?_, ?_, ?_, ?_⟩ <;> decide

theorem folding_last_inv : (folding 254 255 [0x07]).Inv := by
  refine ⟨Memory.wf_ofBytes _, ?_, ?_, ?_, ?_⟩ <;> decide

theorem idle_inv (w : Word) (buf : List Byte) : (idle w buf).Inv := by
  refine ⟨Memory.wf_ofBytes _, ?_, ?_, ?_, ?_⟩ <;> intro h <;> cases h

/-- V4 row 2 at any POLY: TABLE[1] = POLY (R63). -/
theorem test_step_fast_step : ∃ t, step (idle 0x00010001 []) = .next t ∧ readCrc t = .ok poly ∧ readFault t = .ok false := by
  refine ⟨_, rfl, ?_, rfl⟩
  show Except.ok (tableAt poly 0x01) = _
  rw [tableAt_eq]
  exact congrArg Except.ok ((by decide : ∀ p : Byte, refStep p 0x00 0x01 = p) poly)

/-- V4 row 9 at any POLY: crc = data gives 0x00; D is shifted out and K is 0. -/
theorem test_step_reference_step :
    ∃ t, step (idle 0x00939300 []) = .next t ∧ readCrc t = .ok 0x00 ∧ t.d = 0 ∧ t.k = 0 ∧ t.a = 0x93 := by
  refine ⟨_, rfl, ?_, rfl, rfl, rfl⟩
  exact congrArg Except.ok ((by decide : ∀ p : Byte, refStep p 0x93 0x93 = 0x00) poly)

/-- V10 row 7: n = len completes, I = n, the request dropped. -/
theorem test_step_fold_n :
    ∃ t, step (idle 0x00020002 [0x01, 0x02]) = .next t ∧ t.busy = false ∧ t.i = 2 ∧ t.bufReq = false ∧
      t.r = fastStep poly (fastStep poly 0x00 0x01) 0x02 := ⟨_, rfl, rfl, rfl, rfl, rfl⟩

/-- V10 row 3: index 2 is asked for and never answered. -/
theorem test_step_fold_n_underrun :
    ∃ t, step (idle 0x00030002 [0x01, 0x02]) = .next t ∧ t.busy = true ∧ t.rspValid = false ∧ readBufIdx t = .ok 2 ∧
      step t = .fault .stuck := ⟨_, rfl, rfl, rfl, rfl, rfl⟩

/-- V6 row 6: C1 first, SEED the start. -/
theorem test_step_combine_2 :
    ∃ t, step (idle 0x0002C103 []) = .next t ∧ readCrc t = .ok (fastStep poly (fastStep poly seed 0xC1) 0x02) :=
  ⟨_, rfl, rfl⟩

/-- V6 row 11: the third byte is field C. -/
theorem test_step_combine_3 :
    ∃ t, step (idle 0x4302C104 []) = .next t ∧
      readCrc t = .ok (fastStep poly (fastStep poly (fastStep poly seed 0xC1) 0x02) 0x43) ∧ t.c = 0x43 :=
  ⟨_, rfl, rfl, rfl⟩

/-- V10 row 1: a held response is gone, the fault bit is set, `rsp_crc` may not be read, nothing is asked of the buffer. -/
theorem test_step_illegal :
    ∃ t, step (idle 0x00000005 [0x01]) = .next t ∧ readFault t = .ok true ∧ readCrc t = .error .noDefinedValue ∧
      t.busy = false ∧ t.bufReq = false ∧ t.faults = 1 := ⟨_, rfl, rfl, rfl, rfl, rfl, rfl⟩

/-- V10 row 4: reset leaves the stuck engine idle with no response. -/
theorem test_step_reset :
    ∃ t, step (setReset true (folding 1 2 [0x07])) = .next t ∧ t.busy = false ∧ t.rspValid = false ∧ t.bufReq = false ∧
      cmdReady t = false := ⟨_, rfl, rfl, rfl, rfl, rfl⟩

/-- V10 row 5: `rsp_crc` sampled before any command. -/
theorem test_reset_no_response : readCrc State.reset = .error .noDefinedValue := rfl

/-- V10 row 6: a word offered while a fold is in progress is not accepted. -/
theorem test_step_busy_not_accepted :
    ∃ t, step (folding 0 1 [0x07]) = .next t ∧ t.opr = 2 ∧ t.i = 1 ∧ t.bufReq = false ∧ cmdReady t = false :=
  ⟨_, rfl, rfl, rfl, rfl, rfl⟩

/-- R59: the first shift of the V4 trace of `reference_step(0x93, 0x80)`: no feedback, so any POLY; bit 7 of D leaves. -/
theorem test_step_shift : ∃ t, step (shifting 0x93 0x80 8) = .next t ∧ t.r = 0x26 ∧ t.d = 0x00 ∧ t.k = 7 :=
  ⟨_, rfl, by decide, by decide, by decide⟩

/-- The word placed by `withFetchWord` runs first after reset. -/
theorem test_fetch_after_reset :
    step (State.reset.withFetchWord 32 0x0000C702) = exec (.foldN 0xC7 0) (State.reset.withFetchWord 32 0x0000C702) := rfl

/-! ## Listings (R55) -/

theorem test_text :
    (Instr.fastStep 0xA5 0x3C).text [] = "fast_step(0xA5, 0x3C)" ∧
    (Instr.foldN 0x00 2).text [0x01, 0x02] = "fold_n(0x00, [0x01, 0x02], 2)" := by decide +kernel

/-- P1 line 2: the response of an earlier line stands as an operand. -/
theorem test_line_substitution :
    (Line.combine3 (.byte 0xC1) (.byte 0x02) (.bound 0)).cmdWord [some 0x43] = some 0x4302C104 := by decide

/-- R55: a name stands for the count of a fold (P4 line 4's word) and for a byte of its buffer too. -/
theorem test_line_fold_names :
    (Line.foldN (.byte 0x00) [.byte 0x01, .bound 0] (.bound 1)).drive [some 0x02, some 0x03] (idle 0 []) =
      some (idle 0x00030002 [0x01, 0x02]) := by decide

/-- Log entry 14: a line with a name bound to nothing binds none, though the earlier response is still held. -/
theorem test_run_lines_unbound :
    ∃ t, runLines [.fastStep (.bound 0) (.byte 0x01)] [none] (idle 0 []) = .next ([none, none], t) ∧
      readCrc t = .ok 0x93 := ⟨_, rfl, rfl⟩

/-- P4 after line 4 without line 5: a further line is not accepted, and its buffer is not served to the waiting fold. -/
theorem test_run_lines_stuck :
    runLines [.foldN (.byte 0x00) [.byte 0x07, .byte 0x07] (.byte 0x02)] [] (folding 1 2 [0x07]) = .fault .stuck := rfl

/-- P4 line 5: reset lets the run go on. -/
theorem test_run_lines_reset :
    ∃ t, runLines [.reset] [] (folding 1 2 [0x07]) = .next ([none], t) ∧ t.busy = false ∧ cmdReady t = true :=
  ⟨_, rfl, rfl, rfl⟩

/-- P4 line 1: an illegal word gives no readable response. -/
theorem test_run_lines_fault :
    ∃ t, runLines [.word 0x00000005] [] State.reset = .next ([none], t) ∧ t.faults = 1 := ⟨_, rfl, rfl⟩

/-! ## Witnesses: for each statement with hypotheses, values that meet them together, at the bounds of their ranges -/

/-- FieldsDecode: its premise at the first and the last word; Z ≠ 0; Z = 0 with an opcode of each clause. -/
theorem test_witness_FieldsDecode :
    ((0x00000000 : Word).toNat = (0#8).toNat * 2 ^ 24 + (0#8).toNat * 2 ^ 16 + (0#8).toNat * 2 ^ 8 + (0#5).toNat * 2 ^ 3 +
      (0#3).toNat) ∧
    ((0xFFFFFFFF : Word).toNat = (255#8).toNat * 2 ^ 24 + (255#8).toNat * 2 ^ 16 + (255#8).toNat * 2 ^ 8 +
      (31#5).toNat * 2 ^ 3 + (7#3).toNat ∧ (31#5) ≠ 0) ∧
    (∀ op : BitVec 3, (0x00000000 ||| op.zeroExtend 32 : Word).toNat = (0#8).toNat * 2 ^ 24 + (0#8).toNat * 2 ^ 16 +
      (0#8).toNat * 2 ^ 8 + (0#5).toNat * 2 ^ 3 + op.toNat) := by decide

/-- DecodeEncodeRoundTrip: a command is well formed; a word on each side of its second clause. -/
theorem test_witness_DecodeEncodeRoundTrip :
    (Instr.combine3 0xFF 0xFF 0xFF).wf = true ∧ (Instr.referenceStep 0 0).wf = true ∧
    (decode 0xFFFFFF04 = .command (.combine3 0xFF 0xFF 0xFF) ∧ encode (.combine3 0xFF 0xFF 0xFF) = 0xFFFFFF04) ∧
    ¬(lowByte 0xAB010000 ≠ 4 → fieldC 0xAB010000 = 0) := by decide

/-- UnusedFieldIgnored: two words of one command, OP = 0 and OP = 3, the one offered to an idle engine. -/
theorem test_witness_UnusedFieldIgnored :
    ((0xAB010000 : Word).toNat % 2 ^ 24 = (0x00010000 : Word).toNat % 2 ^ 24 ∧ lowByte 0xAB010000 ≤ 3) ∧
    ((0xFF01C003 : Word).toNat % 2 ^ 24 = (0x0001C003 : Word).toNat % 2 ^ 24 ∧ lowByte 0xFF01C003 ≤ 3) ∧
    (idle 0xAB010000 []).offers 0xAB010000 := ⟨by decide, by decide, rfl, rfl, rfl, rfl⟩

/-- IllegalWords, FaultExactlyOnIllegalWords, ResponseGivenAndHeld, IllegalCommandEntry: an illegal word offered, at the
first and the last low byte. -/
theorem test_witness_illegal_offered :
    ((idle 0x00000005 []).offers 0x00000005 ∧ 4 < lowByte 0x00000005) ∧
    ((idle 0xFFFFFFFF []).offers 0xFFFFFFFF ∧ 4 < lowByte 0xFFFFFFFF) ∧
    (∃ t, step (idle 0x00000005 []) = .next t) :=
  ⟨⟨⟨rfl, rfl, rfl, rfl⟩, by decide⟩, ⟨⟨rfl, rfl, rfl, rfl⟩, by decide⟩, _, rfl⟩

/-- Every byte has its polynomial (R11). -/
theorem test_polyOf_exists (v : Byte) : ∃ q : Polynomial (ZMod 2), PolyOf v q := by
  refine ⟨∑ i ∈ Finset.range 8, if v.getLsbD i then Polynomial.X ^ i else 0, fun j => ?_⟩
  rw [Polynomial.finsetSum_coeff]
  rw [Finset.sum_congr rfl (g := fun i => if j = i then (if v.getLsbD i then (1 : ZMod 2) else 0) else 0)
    (fun i _ => by split <;> simp [Polynomial.coeff_X_pow])]
  rw [Finset.sum_ite_eq]
  split
  · rfl
  · rename_i h
    rw [BitVec.getLsbD_of_ge _ _ (by simpa using h)]; rfl

/-- ShiftRegister: both feedback clauses; the bit numbers 1 and 7; polynomials of POLY = 0x93 and of a register. -/
theorem test_witness_ShiftRegister :
    (((0xFF#8).getLsbD 7 ^^ false) = true ∧ ((0x80#8).getLsbD 7 ^^ true) = false) ∧
    (∃ i : Nat, 1 ≤ i ∧ i ≤ 7 ∧ i = 1) ∧ (∃ i : Nat, 1 ≤ i ∧ i ≤ 7 ∧ i = 7) ∧
    (∃ P R, PolyOf 0x93 P ∧ PolyOf 0xFF R) := by
  obtain ⟨P, hP⟩ := test_polyOf_exists 0x93
  obtain ⟨R, hR⟩ := test_polyOf_exists 0xFF
  exact ⟨by decide, ⟨1, by decide⟩, ⟨7, by decide⟩, P, R, hP, hR⟩

/-- ReferenceStepIsRemainder: an engine with all eight shifts before it, and with one; polynomials of POLY, register and data. -/
theorem test_witness_ReferenceStepIsRemainder :
    ((shifting 0xFF 0x00 8).rst = false ∧ (shifting 0xFF 0x00 8).busy = true ∧ (shifting 0xFF 0x00 8).opr = 0 ∧
      (shifting 0xFF 0x00 8).k = 8) ∧
    ((shifting 0xFF 0x00 1).rst = false ∧ (shifting 0xFF 0x00 1).busy = true ∧ (shifting 0xFF 0x00 1).opr = 0 ∧
      (shifting 0xFF 0x00 1).k ≠ 0) ∧
    (∃ P C D, PolyOf 0x93 P ∧ PolyOf 0xFF C ∧ PolyOf 0x3C D) := by
  obtain ⟨P, hP⟩ := test_polyOf_exists 0x93
  obtain ⟨C, hC⟩ := test_polyOf_exists 0xFF
  obtain ⟨D, hD⟩ := test_polyOf_exists 0x3C
  exact ⟨⟨rfl, rfl, rfl, rfl⟩, ⟨rfl, rfl, rfl, by decide⟩, P, C, D, hP, hC, hD⟩

/-- TableEntries: the first and the last index. -/
theorem test_witness_TableEntries :
    (table 0x93)[0]? = some (refStep 0x93 0x00 (BitVec.ofNat 8 0)) ∧
    (table 0x93)[255]? = some (refStep 0x93 0x00 (BitVec.ofNat 8 255)) := by decide +kernel

/-- SingleBitDetection, AdmissiblePolynomial: an admissible POLY with the bits 0 and 7; two distinct data bytes; and at
POLY = 0x00 the flip is not seen. -/
theorem test_witness_SingleBitDetection :
    ((0x93 : Byte) ≠ 0x00 ∧ 0 < 8 ∧ 7 < 8 ∧ (0x01 : Byte) ≠ 0x02) ∧
    refStep 0x93 0x00 0x00 ≠ refStep 0x93 0x00 (0x00 ^^^ (1#8 <<< 0)) ∧
    refStep 0x80 0xFF 0x00 ≠ refStep 0x80 0xFF (0x00 ^^^ (1#8 <<< 7)) ∧
    refStep 0x00 0x00 0x00 = refStep 0x00 0x00 (0x00 ^^^ (1#8 <<< 0)) := by decide

/-- UnrolledNetwork: the bits 0 and 7 of V4 row 13, idx 0x99, result 0x6C. -/
theorem test_witness_UnrolledNetwork :
    (0x99 : Byte) = 0xA5 ^^^ 0x3C ∧ (0x6C : Byte) = fastStep 0x93 0xA5 0x3C ∧ 0 < 8 ∧ 7 < 8 := by decide +kernel

/-- ReferenceStepCommand, FastStepCommand, FoldCommand, Combine2Command, Combine3Command: a word of each, with every bit
above the low byte set. -/
theorem test_witness_command_words :
    lowByte 0xFFFFFF00 = 0x00 ∧ lowByte 0xFFFFFF01 = 0x01 ∧ lowByte 0xFFFFFF02 = 0x02 ∧ lowByte 0xFFFFFF03 = 0x03 ∧
    lowByte 0xFFFFFF04 = 0x04 := by decide

/-- CheckByteResidue: the longest message, an odd POLY. -/
theorem test_witness_CheckByteResidue :
    (List.replicate 254 (0x31 : Byte)).length ≤ 254 ∧ (0x93 : Byte).getLsbD 0 = true := by decide +kernel

/-- BufferRead: the last index held, the first not held, and a request for each, in a fold with reset released. -/
theorem test_witness_BufferRead :
    Memory.wf (folding 1 2 [0x07]).buf ∧ (0 : Byte).toNat < Memory.len (folding 1 2 [0x07]).buf ∧
    Memory.len (folding 1 2 [0x07]).buf ≤ (1 : Byte).toNat ∧
    ((folding 1 2 [0x07]).bufReq = true ∧ bufAck (folding 1 2 [0x07]) = false) ∧
    ((folding 0 2 [0x07]).bufReq = true ∧ bufAck (folding 0 2 [0x07]) = true) ∧
    ((folding 0 2 [0x07]).rst = false ∧ (folding 0 2 [0x07]).busy = true ∧ (folding 0 2 [0x07]).opr = 2 ∧
      (folding 0 2 [0x07]).i ≠ (folding 0 2 [0x07]).b ∧ memRead (folding 0 2 [0x07]) (folding 0 2 [0x07]).i = some 0x07) ∧
    ((folding 1 2 [0x07]).rst = false ∧ (folding 1 2 [0x07]).busy = true ∧ (folding 1 2 [0x07]).opr = 2 ∧
      (folding 1 2 [0x07]).i ≠ (folding 1 2 [0x07]).b ∧
      Memory.len (folding 1 2 [0x07]).buf ≤ (folding 1 2 [0x07]).i.toNat) := by decide

/-- FoldFunction: the last step over a buffer; two buffers that agree on the first byte only. -/
theorem test_witness_FoldFunction :
    1 < ([0x01, 0x02] : List Byte).length ∧ ([0x01, 0x02] : List Byte).take 1 = [0x01, 0xEE].take 1 := by decide

/-- FoldSequencing, FoldCommand, UnderrunIsStuck: a count that the buffer just serves (k at 0 and at the count), and one
above. -/
theorem test_witness_fold_counts :
    (idle 0 [0x01, 0x02]).rst = false ∧ Memory.wf (idle 0 [0x01, 0x02]).buf ∧
    (2 : Byte).toNat ≤ Memory.len (idle 0 [0x01, 0x02]).buf ∧ 0 < (2 : Byte).toNat ∧ 1 < (2 : Byte).toNat ∧
    2 ≤ (2 : Byte).toNat ∧ Memory.len (idle 0 [0x01, 0x02]).buf < (3 : Byte).toNat := by decide

/-- FoldCommand: two buffers that differ above the count only. -/
theorem test_witness_FoldCommand :
    (1 : Byte).toNat ≤ ([0x01, 0x02] : List Byte).length ∧ (1 : Byte).toNat ≤ ([0x01] : List Byte).length ∧
    ([0x01, 0x02] : List Byte).take (1 : Byte).toNat = [0x01].take (1 : Byte).toNat := by decide

/-- FoldComposition: parts that together reach the largest count. -/
theorem test_witness_FoldComposition :
    (List.replicate 5 (0x31 : Byte)).length = (5 : Byte).toNat ∧ (List.replicate 250 (0x36 : Byte)).length = (250 : Byte).toNat ∧
    (5 : Byte).toNat + (250 : Byte).toNat ≤ 255 ∧
    (List.replicate 5 (0x31 : Byte)).length + (List.replicate 250 (0x36 : Byte)).length ≤ 255 := by decide +kernel

/-- HostInputsNeverWritten, StepKeepsInvariant: a step, one inside a fold, one that accepts a command, one that resets. -/
theorem test_witness_step :
    ((folding 0 1 [0x07]).Inv ∧ ∃ t, step (folding 0 1 [0x07]) = .next t) ∧
    ((idle 0x00030002 [0x01, 0x02]).Inv ∧ ∃ t, step (idle 0x00030002 [0x01, 0x02]) = .next t) ∧
    ((setReset true (folding 0 1 [0x07])).Inv ∧ ∃ t, step (setReset true (folding 0 1 [0x07])) = .next t) :=
  ⟨⟨folding_served_inv, _, rfl⟩, ⟨idle_inv _ _, _, rfl⟩, folding_served_inv, _, rfl⟩

/-- StepRunsDecodedCommand, FirstCommandAfterReset: a word of each command, offered; and a word for `withFetchWord`. -/
theorem test_witness_offers :
    ((idle 0x00010000 []).offers 0x00010000 ∧ decode 0x00010000 = .command (.referenceStep 0x00 0x01)) ∧
    ((idle 0x003CA501 []).offers 0x003CA501 ∧ decode 0x003CA501 = .command (.fastStep 0xA5 0x3C)) ∧
    ((idle 0x00020002 []).offers 0x00020002 ∧ decode 0x00020002 = .command (.foldN 0x00 2)) ∧
    ((idle 0x00020103 []).offers 0x00020103 ∧ decode 0x00020103 = .command (.combine2 0x01 0x02)) ∧
    ((idle 0x03020104 []).offers 0x03020104 ∧ decode 0x03020104 = .command (.combine3 0x01 0x02 0x03)) ∧
    decodeTableWord 32 0x03020104 = some (.combine3 0x01 0x02 0x03) :=
  ⟨⟨⟨rfl, rfl, rfl, rfl⟩, by decide⟩, ⟨⟨rfl, rfl, rfl, rfl⟩, by decide⟩, ⟨⟨rfl, rfl, rfl, rfl⟩, by decide⟩,
    ⟨⟨rfl, rfl, rfl, rfl⟩, by decide⟩, ⟨⟨rfl, rfl, rfl, rfl⟩, by decide⟩, by decide⟩

/-- CommandAcceptance: a busy engine with a word offered, at its last transition and stuck; an idle one with none. -/
theorem test_witness_CommandAcceptance :
    ((folding 1 1 [0x07]).busy = true ∧ (folding 1 1 [0x07]).rst = false ∧ (folding 1 1 [0x07]).cmdValid = true ∧
      (folding 1 1 [0x07]).cmd = 0x00010001 ∧ decode 0x00010001 = .command (.fastStep 0x00 0x01) ∧
      ∃ t, step (folding 1 1 [0x07]) = .next t ∧ t.busy = false) ∧
    ((folding 1 2 [0x07]).busy = true ∧ (folding 1 2 [0x07]).rst = false ∧ step (folding 1 2 [0x07]) = .fault .stuck) ∧
    ((withdraw (idle 0 [])).busy = false ∧ (withdraw (idle 0 [])).rst = false ∧ (withdraw (idle 0 [])).cmdValid = false) :=
  ⟨⟨rfl, rfl, rfl, rfl, by decide, _, rfl, rfl⟩, ⟨rfl, rfl, rfl⟩, rfl, rfl, rfl⟩

/-- ResponseGivenAndHeld, FaultNotSticky: a command that the buffer serves, n = len, after a fault response. -/
theorem test_witness_FaultNotSticky :
    (idle 0x00000005 [0x01, 0x02]).offers 0x00000005 ∧ 4 < lowByte 0x00000005 ∧
    (∃ t, step (idle 0x00000005 [0x01, 0x02]) = .next t) ∧ Memory.wf (idle 0x00000005 [0x01, 0x02]).buf ∧
    decode 0x00020002 = .command (.foldN 0x00 2) ∧ (idle 0x00000005 [0x01, 0x02]).serves (.foldN 0x00 2) :=
  ⟨⟨rfl, rfl, rfl, rfl⟩, by decide, ⟨_, rfl⟩, Memory.wf_ofBytes _, by decide,
    show (2 : Byte).toNat ≤ Memory.len (Memory.ofBytes [0x01, 0x02]) by decide⟩

/-- OutcomeTrichotomy: a word of each outcome. -/
theorem test_witness_OutcomeTrichotomy :
    Memory.wf (idle 0x00020002 [0x01, 0x02]).buf ∧ (idle 0x00020002 [0x01, 0x02]).offers 0x00020002 ∧
    (idle 0x00010008 [0x01, 0x02]).offers 0x00010008 ∧
    (idle 0x00030002 [0x01, 0x02]).offers 0x00030002 :=
  ⟨Memory.wf_ofBytes _, ⟨rfl, rfl, rfl, rfl⟩, ⟨rfl, rfl, rfl, rfl⟩, rfl, rfl, rfl, rfl⟩

/-- NoHiddenState: two states that differ in R, in the working registers and in the buffer above the count. -/
theorem test_witness_NoHiddenState :
    (idle 0x00010002 [0x01, 0x02]).Inv ∧
    ({ idle 0x00010002 [0x01] with r := 0x00, b := 7, k := 15 } : State).Inv ∧
    (idle 0x00010002 [0x01, 0x02]).offers 0x00010002 ∧
    ({ idle 0x00010002 [0x01] with r := 0x00, b := 7, k := 15 } : State).offers 0x00010002 ∧
    decode 0x00010002 = .command (.foldN 0x00 1) ∧
    (∀ j : Nat, j < (1 : Byte).toNat →
      Memory.read (idle 0x00010002 [0x01, 0x02]).buf j = Memory.read (idle 0x00010002 [0x01]).buf j) := by
  refine ⟨idle_inv _ _, ⟨Memory.wf_ofBytes [0x01], by decide⟩, ⟨rfl, rfl, rfl, rfl⟩, ⟨rfl, rfl, rfl, rfl⟩, by decide, ?_⟩
  intro j hj
  obtain rfl : j = 0 := Nat.lt_one_iff.mp hj
  rfl

/-- SmallStepsReachAtomicResult: reset released. -/
theorem test_witness_SmallSteps : (idle 0 []).rst = false := rfl

/-- BusyEngineResponds: a served fold under way, a bit-serial step under way. -/
theorem test_witness_BusyEngineResponds :
    ((folding 0 1 [0x07]).Inv ∧ (folding 0 1 [0x07]).busy = true ∧ (folding 0 1 [0x07]).rst = false ∧
      ((folding 0 1 [0x07]).opr = 2 → (folding 0 1 [0x07]).b.toNat ≤ Memory.len (folding 0 1 [0x07]).buf)) ∧
    ((shifting 0xFF 0x00 8).Inv ∧ (shifting 0xFF 0x00 8).busy = true ∧ (shifting 0xFF 0x00 8).rst = false ∧
      ((shifting 0xFF 0x00 8).opr = 2 → (shifting 0xFF 0x00 8).b.toNat ≤ Memory.len (shifting 0xFF 0x00 8).buf)) := by
  refine ⟨⟨folding_served_inv, by decide⟩, ⟨Memory.wf_ofBytes _, ?_⟩, ?_⟩ <;> decide

/-- IndexNeverWraps: the largest index a fold asks for, 254 of 255; a fold step and a shift, at K = 8, after which the
engine is still busy. -/
theorem test_witness_IndexNeverWraps :
    ((folding 254 255 [0x07]).Inv ∧ (folding 254 255 [0x07]).bufReq = true) ∧
    ((folding 0 1 [0x07]).Inv ∧ (folding 0 1 [0x07]).busy = true ∧ (folding 0 1 [0x07]).opr = 2 ∧
      (folding 0 1 [0x07]).rst = false ∧ ∃ t, step (folding 0 1 [0x07]) = .next t ∧ t.busy = true) ∧
    ((shifting 0xFF 0x00 8).Inv ∧ (shifting 0xFF 0x00 8).busy = true ∧ (shifting 0xFF 0x00 8).opr = 0 ∧
      (shifting 0xFF 0x00 8).rst = false ∧ ∃ t, step (shifting 0xFF 0x00 8) = .next t ∧ t.busy = true) :=
  ⟨⟨folding_last_inv, by decide⟩, ⟨folding_served_inv, rfl, rfl, rfl, _, rfl, rfl⟩,
    ⟨Memory.wf_ofBytes _, by decide⟩, rfl, rfl, rfl, _, rfl, rfl⟩

/-- ResetMeetsInvariant: a state with the invariant. -/
theorem test_witness_ResetMeetsInvariant : (idle 0x00010001 [0x07]).Inv := idle_inv _ _

/-- ResetEdge, FirstCommandAfterReset: reset asserted at a busy engine with a request outstanding, its step; and a stuck
engine without it. -/
theorem test_witness_ResetEdge :
    ((setReset true (folding 1 2 [0x07])).rst = true ∧ (setReset true (folding 1 2 [0x07])).busy = true ∧
      ∃ t, step (setReset true (folding 1 2 [0x07])) = .next t) ∧
    ((folding 1 2 [0x07]).stuck ∧ (folding 1 2 [0x07]).rst = false) :=
  ⟨⟨rfl, rfl, _, rfl⟩, ⟨rfl, rfl, by decide, rfl⟩, rfl⟩

/-- RequesterIndependence: a command of the other requester that completes, and a fold that its own buffer serves. -/
theorem test_witness_RequesterIndependence :
    (∃ t, exec (.foldN 0xFF 1) (serve [0x01] (idle 0 [])) = .next t ∧ t.busy = false) ∧
    (serve [0x01, 0x02] (idle 0 [])).serves (.foldN 0x00 2) :=
  ⟨⟨_, rfl, rfl⟩, show (2 : Byte).toNat ≤ Memory.len (Memory.ofBytes [0x01, 0x02]) by decide⟩

/-- PhaseTransitions: an idle engine that accepts and one that is offered nothing; a busy one that stays so, one that
responds, one that is reset. -/
theorem test_witness_PhaseTransitions :
    ((idle 0x00010001 []).rst = false ∧ (idle 0x00010001 []).busy = false ∧ ∃ t, step (idle 0x00010001 []) = .next t) ∧
    (∃ t, step (withdraw (idle 0 [])) = .next t) ∧
    ((folding 0 1 [0x07]).busy = true ∧ ∃ t, step (folding 0 1 [0x07]) = .next t ∧ t.busy = true) ∧
    ((folding 1 1 [0x07]).busy = true ∧ ∃ t, step (folding 1 1 [0x07]) = .next t ∧ t.busy = false) ∧
    (∃ t, step (setReset true (folding 0 1 [0x07])) = .next t ∧ t.busy = false) :=
  ⟨⟨rfl, rfl, _, rfl⟩, ⟨_, rfl⟩, ⟨rfl, _, rfl, rfl⟩, ⟨rfl, _, rfl, rfl⟩, _, rfl, rfl⟩

/-- RunEndsFinal: a run whose last line drives a fold that its own buffer serves. -/
theorem test_witness_RunEndsFinal :
    ∃ env' t, runLines [.foldN (.byte 0x00) [.byte 0x01] (.byte 0x01)] [] (idle 0 []) = .next (env', t) ∧
      [Line.foldN (.byte 0x00) [.byte 0x01] (.byte 0x01)].getLast? =
        some (.foldN (.byte 0x00) [.byte 0x01] (.byte 0x01)) ∧
      Line.foldN (.byte 0x00) [.byte 0x01] (.byte 0x01) ≠ .reset ∧
      (Line.foldN (.byte 0x00) [.byte 0x01] (.byte 0x01)).drive env'.dropLast (idle 0 []) ≠ none :=
  ⟨_, _, rfl, rfl, by decide, fun h => by cases h⟩

/-- StuckRunStops: a stuck engine, and a line that is no reset. -/
theorem test_witness_StuckRunStops : (folding 1 2 [0x07]).stuck ∧ Line.word 0x00020103 ≠ .reset :=
  ⟨⟨rfl, rfl, by decide, rfl⟩, by decide⟩

/-- LinesRunInOrder: names bound, in each operand and in the buffer; a line that its own buffer serves; one with an unbound
name. -/
theorem test_witness_LinesRunInOrder :
    ([some 0x02, none] : Bindings)[0]? = some (some 0x02) ∧
    ((Arg.bound 0).value [some 0x02] = some 0x02 ∧ (Arg.byte 0x01).value [some 0x02] = some 0x01) ∧
    [Arg.byte 0x01, .bound 0].map (fun x => x.value [some 0x02]) = ([0x01, 0x02] : List Byte).map some ∧
    ((idle 0 []).busy = false ∧
      (Line.foldN (.byte 0x00) [.byte 0x01, .bound 0] (.bound 0)).command [some 0x02] = some (.foldN 0x00 2) ∧
      ∃ v, (Line.foldN (.byte 0x00) [.byte 0x01, .bound 0] (.bound 0)).drive [some 0x02] (idle 0 []) = some v ∧
        Memory.wf v.buf ∧ v.serves (.foldN 0x00 2)) ∧
    (Line.fastStep (.bound 1) (.byte 0x01)).drive [some 0x02, none] (idle 0 []) = none :=
  ⟨rfl, ⟨rfl, rfl⟩, rfl, ⟨rfl, rfl, _, rfl, Memory.wf_ofBytes [0x01, 0x02],
    show (2 : Byte).toNat ≤ Memory.len (Memory.ofBytes [0x01, 0x02]) by decide⟩, rfl⟩

/-- FinalStateHolds: a final state; a busy one; a fold that the buffer just serves. -/
theorem test_witness_FinalStateHolds :
    (withdraw (idle 0 [])).final ∧ (folding 0 1 [0x07]).busy = true ∧
    (Memory.wf (idle 0 [0x01, 0x02]).buf ∧ (idle 0 [0x01, 0x02]).serves (.foldN 0x00 2) ∧
      (idle 0 [0x01, 0x02]).rst = false) :=
  ⟨⟨rfl, rfl, rfl, rfl⟩, rfl, Memory.wf_ofBytes _,
    show (2 : Byte).toNat ≤ Memory.len (Memory.ofBytes [0x01, 0x02]) by decide, rfl⟩

/-- UnspecifiedReadRefused: no response held; a fault response; no request; a held response. -/
theorem test_witness_UnspecifiedReadRefused :
    (folding 0 1 [0x07]).rspValid = false ∧ ({ idle 0 [] with rspFault := true } : State).rspFault = true ∧
    (idle 0 []).bufReq = false ∧ ((idle 0 []).rspValid = true ∧ (idle 0 []).rspFault = false) := ⟨rfl, rfl, rfl, rfl, rfl⟩

end Sys2Proof.Tests
end

section
/-! PROOFS. R6: which polynomials see every single-bit flip of the data byte, and for which the byte step is a bijection of
the register. Both rest on the step being linear and on one invariant of a clock with no data bit: a register that is not
0x00 and holds no 1 below the lowest 1 of POLY stays so. -/

namespace Sys2Proof.Machine

/-! ## The byte step is linear (R60) -/

theorem foldl_shift1_xor (p d d' : Byte) (js : List Nat) (c c' : Byte) :
    js.foldl (fun r j => shift1 p r ((d ^^^ d').getLsbD j)) (c ^^^ c') =
      js.foldl (fun r j => shift1 p r (d.getLsbD j)) c ^^^ js.foldl (fun r j => shift1 p r (d'.getLsbD j)) c' := by
  induction js generalizing c c' with
  | nil => rfl
  | cons j js ih =>
    simp only [List.foldl_cons]
    rw [BitVec.getLsbD_xor, shift1_linear, ih]

theorem refStep_xor (p c c' d d' : Byte) :
    refStep p (c ^^^ c') (d ^^^ d') = refStep p c d ^^^ refStep p c' d' :=
  foldl_shift1_xor p d d' _ c c'

/-- R67's difference: what a change of the data byte changes in the response, whatever the operands. -/
theorem refStep_xor_refStep_flip (p c d e : Byte) : refStep p c d ^^^ refStep p c (d ^^^ e) = refStep p 0 e := by
  simpa [← BitVec.xor_assoc] using (refStep_xor p c c d (d ^^^ e)).symm

/-- What a change of the register changes in the response, whatever the data byte. -/
theorem refStep_xor_refStep_register (p c c' d : Byte) :
    refStep p c d ^^^ refStep p c' d = refStep p (c ^^^ c') 0 := by
  simpa using (refStep_xor p c c' d d).symm

/-! ## Clocks with no data bit -/

/-- A clock of the shift register with data bit 0: multiplication by x modulo x^8 + POLY. -/
def clock (p r : Byte) : Byte := shift1 p r false

/-- The step with no data is eight such clocks. -/
theorem refStep_no_data (p c : Byte) : refStep p c 0 = (clock p)^[8] c := by
  simp [refStep, clock]

/-- The step of one data bit from a zero register: the bit puts POLY into the register, and a clock follows for each place
below it. -/
theorem refStep_one_bit (p : Byte) (k : Nat) (hk : k < 8) : refStep p 0 (1#8 <<< k) = (clock p)^[k] p := by
  have idle : shift1 p 0#8 false = 0#8 := by simp [shift1]
  have inject : shift1 p 0#8 true = p := by simp [shift1]
  interval_cases k <;> simp [refStep, clock, idle, inject]

/-! ## What such a clock keeps -/

/-- No 1 below bit `m`: as a polynomial, a multiple of x^m. -/
def ClearBelow (m : Nat) (r : Byte) : Prop := ∀ j < m, r.getLsbD j = false

/-- Bit `m` is the lowest 1. -/
structure LowestBit (m : Nat) (r : Byte) : Prop where
  lt : m < 8
  bit : r.getLsbD m = true
  clear : ClearBelow m r

/-- The clock's invariant: not 0x00, and no 1 below bit `m`. -/
structure LiveAbove (m : Nat) (r : Byte) : Prop where
  ne_zero : r ≠ 0
  clear : ClearBelow m r

theorem ne_zero_of_getLsbD {r : Byte} {j : Nat} (h : r.getLsbD j = true) : r ≠ 0 := by
  rintro rfl
  simp at h

theorem exists_getLsbD_of_ne_zero {r : Byte} (h : r ≠ 0) : ∃ j, j < 8 ∧ r.getLsbD j = true := by
  by_contra hno
  refine h (BitVec.eq_of_getLsbD_eq fun j hj => ?_)
  rw [BitVec.ofNat_eq_ofNat, BitVec.getLsbD_zero]
  exact Bool.eq_false_iff.mpr fun ht => hno ⟨j, hj, ht⟩

theorem exists_lowestBit {r : Byte} (h : r ≠ 0) : ∃ m, LowestBit m r := by
  have hex := exists_getLsbD_of_ne_zero h
  obtain ⟨hlt, hbit⟩ := Nat.find_spec hex
  refine ⟨Nat.find hex, hlt, hbit, fun j hj => ?_⟩
  exact Bool.eq_false_iff.mpr fun ht => Nat.find_min hex hj ⟨hj.trans hlt, ht⟩

theorem LowestBit.liveAbove {m : Nat} {r : Byte} (h : LowestBit m r) : LiveAbove m r :=
  ⟨ne_zero_of_getLsbD h.bit, h.clear⟩

theorem clearBelow_zero (r : Byte) : ClearBelow 0 r := fun _ hj => absurd hj (Nat.not_lt_zero _)

theorem clock_clearBelow {p r : Byte} {m : Nat} (hm : m < 8) (hp : ClearBelow m p) (hr : ClearBelow m r) :
    ClearBelow m (clock p r) := by
  intro j hj
  cases j with
  | zero => rw [clock, shift1_bit_zero, hp 0 hj, Bool.and_false]
  | succ j =>
    rw [clock, shift1_bit_succ _ _ _ _ (by omega), hp _ hj, hr j (by omega), Bool.and_false, Bool.false_xor]

/-- The feedback writes bit `m`, since nothing below it moves up; with no feedback a 1 below bit 7 moves up. -/
theorem clock_ne_zero {p r : Byte} {m : Nat} (hp : LowestBit m p) (hr : LiveAbove m r) : clock p r ≠ 0 := by
  obtain ⟨hm, hbit, -⟩ := hp
  obtain ⟨hne, hclear⟩ := hr
  cases h7 : r.getLsbD 7 with
  | true =>
    refine ne_zero_of_getLsbD (j := m) ?_
    cases m with
    | zero => rw [clock, shift1_bit_zero, h7, hbit]; rfl
    | succ m => rw [clock, shift1_bit_succ _ _ _ _ (by omega), h7, hbit, hclear m (by omega)]; rfl
  | false =>
    obtain ⟨j, hj, ht⟩ := exists_getLsbD_of_ne_zero hne
    have hj7 : j ≠ 7 := by
      rintro rfl
      rw [h7] at ht; cases ht
    refine ne_zero_of_getLsbD (j := j + 1) ?_
    rw [clock, shift1_bit_succ _ _ _ _ (by omega), h7, ht]; rfl

theorem iterate_clock_liveAbove {p r : Byte} {m : Nat} (hp : LowestBit m p) (hr : LiveAbove m r) (n : Nat) :
    LiveAbove m ((clock p)^[n] r) := by
  induction n with
  | zero => exact hr
  | succ n ih =>
    rw [Function.iterate_succ_apply']
    exact ⟨clock_ne_zero hp ih, clock_clearBelow hp.lt hp.clear ih.clear⟩

/-! ## The two properties of POLY -/

/-- R67: with POLY ≠ 0x00 one data bit alone never leaves 0x00. -/
theorem refStep_one_bit_ne_zero {p : Byte} (hp : p ≠ 0) {k : Nat} (hk : k < 8) : refStep p 0 (1#8 <<< k) ≠ 0 := by
  obtain ⟨m, hm⟩ := exists_lowestBit hp
  rw [refStep_one_bit p k hk]
  exact (iterate_clock_liveAbove hm hm.liveAbove k).ne_zero

theorem refStep_flip_ne {p : Byte} (hp : p ≠ 0) (c d : Byte) {k : Nat} (hk : k < 8) :
    refStep p c d ≠ refStep p c (d ^^^ (1#8 <<< k)) := by
  intro h
  refine refStep_one_bit_ne_zero hp hk ?_
  rw [← refStep_xor_refStep_flip p c d]
  exact BitVec.xor_eq_zero_iff.mpr h

theorem refStep_injective_of_odd {p : Byte} (hp : p.getLsbD 0 = true) (d : Byte) :
    Function.Injective fun c => refStep p c d := by
  intro c c' (h : refStep p c d = refStep p c' d)
  by_contra hne
  have hlow : LowestBit 0 p := ⟨by decide, hp, clearBelow_zero p⟩
  have hlive : LiveAbove 0 (c ^^^ c') := ⟨fun h0 => hne (BitVec.xor_eq_zero_iff.mp h0), clearBelow_zero _⟩
  refine (iterate_clock_liveAbove hlow hlive 8).ne_zero ?_
  rw [← refStep_no_data, ← refStep_xor_refStep_register p c c' d]
  exact BitVec.xor_eq_zero_iff.mpr h

/-- Bit 0 of the response is the last clock's feedback, gated by bit 0 of POLY. -/
theorem odd_of_refStep_bit_zero {p c d : Byte} (h : (refStep p c d).getLsbD 0 = true) : p.getLsbD 0 = true := by
  have hlast : ∃ r, refStep p c d = shift1 p r (d.getLsbD 0) := ⟨_, rfl⟩
  obtain ⟨r, hr⟩ := hlast
  rw [hr, shift1_bit_zero, Bool.and_eq_true] at h
  exact h.2

theorem poly_ne_zero : poly ≠ 0x00 := by
  have hlt := Config.polyIndex.isLt
  intro h
  have h0 : (Config.polyIndex.val + 1) % 2 ^ 8 = 0 := congrArg BitVec.toNat h
  omega

/-- Settles O12: the clock's invariant at the lowest bit of POLY gives detection for every POLY but 0x00, at bit 0
injectivity for every odd one; POLY = 0x00 misses a flip of bit 0, and an even POLY never answers 0x01. -/
theorem admissiblePolynomial : Obligations.AdmissiblePolynomial := by
  refine ⟨fun p => ⟨?_, fun hp c d k hk => refStep_flip_ne hp c d hk⟩, fun p => ⟨fun hbij => ?_, fun hp d => ?_⟩,
    rfl, by decide, poly_ne_zero⟩
  · rintro hdetects rfl
    exact hdetects 0x00 0x00 0 (by decide) (by decide)
  · obtain ⟨c, hc⟩ := (hbij 0x00).surjective 0x01
    exact odd_of_refStep_bit_zero (c := c) (d := 0x00) (by rw [show refStep p c 0x00 = 0x01 from hc]; rfl)
  · exact Finite.injective_iff_bijective.mp (refStep_injective_of_odd hp d)

end Sys2Proof.Machine
end

section
/-! PROOFS. The block's state (10_state.md): the rules about acceptance, response, idling and the busy engine that its
obligations share, said once in the order of the definitions they speak of; then the obligations. -/

namespace Sys2Proof.Machine

/-! ## Decoding: what a legal word decodes to, and which words do not -/

/-- R53 read backwards: a word that decodes to a command is that command's operation on the word's own fields. -/
theorem decode_command_cases {w : Word} {i : Instr} (h : decode w = .command i) :
    (fieldOP w = 0 ∧ i = .referenceStep (fieldA w) (fieldB w)) ∨
    (fieldOP w = 1 ∧ i = .fastStep (fieldA w) (fieldB w)) ∨
    (fieldOP w = 2 ∧ i = .foldN (fieldA w) (fieldB w)) ∨
    (fieldOP w = 3 ∧ i = .combine2 (fieldA w) (fieldB w)) ∨
    (fieldOP w = 4 ∧ i = .combine3 (fieldA w) (fieldB w) (fieldC w)) := by
  unfold decode at h
  split at h
  · split at h
    · next ho => exact .inl ⟨BitVec.eq_of_toNat_eq ho, (Decoded.command.inj h).symm⟩
    · next ho => exact .inr (.inl ⟨BitVec.eq_of_toNat_eq ho, (Decoded.command.inj h).symm⟩)
    · next ho => exact .inr (.inr (.inl ⟨BitVec.eq_of_toNat_eq ho, (Decoded.command.inj h).symm⟩))
    · next ho => exact .inr (.inr (.inr (.inl ⟨BitVec.eq_of_toNat_eq ho, (Decoded.command.inj h).symm⟩)))
    · next ho => exact .inr (.inr (.inr (.inr ⟨BitVec.eq_of_toNat_eq ho, (Decoded.command.inj h).symm⟩)))
    · cases h
  · cases h

/-- R50: a low byte above 0x04 has Z ≠ 0 or names no operation. -/
theorem decode_illegal_of_lowByte {w : Word} (h : 4 < lowByte w) : ∃ why, decode w = .illegal why := by
  cases hd : decode w with
  | illegal why => exact ⟨why, rfl⟩
  | command i =>
    have hz : fieldZ w = 0 := by
      by_contra hz
      rw [decode, if_neg hz] at hd; cases hd
    have hop : lowByte w = (fieldOP w).toNat := by rw [lowByte_eq, hz]; simp
    rcases decode_command_cases hd with ⟨ho, -⟩ | ⟨ho, -⟩ | ⟨ho, -⟩ | ⟨ho, -⟩ | ⟨ho, -⟩ <;>
      simp [hop, ho] at h

/-! ## The step of an idle engine -/

section
variable {s : State} {w : Word}

theorem offered_of_offers (h : s.offers w) : offered s = some w := by
  obtain ⟨hbusy, hrst, hvalid, hcmd⟩ := h
  exact (offered_eq_some_iff s w).mpr ⟨hvalid, hbusy, hrst, hcmd⟩

/-- R10, R20: an offered command is accepted and executed. -/
theorem step_of_offers_command {i : Instr} (h : s.offers w) (hd : decode w = .command i) : step s = exec i s := by
  have hw := offered_of_offers h
  obtain ⟨hbusy, hrst, -, -⟩ := h
  simp [step, hbusy, hrst, hw, hd]

/-- R50, R84: an offered illegal word is accepted and ends in the fault. -/
theorem step_of_offers_illegal {why : IllegalCause} (h : s.offers w) (hd : decode w = .illegal why) :
    step s = .next (endIllegal w s) := by
  have hw := offered_of_offers h
  obtain ⟨hbusy, hrst, -, -⟩ := h
  simp [step, hbusy, hrst, hw, hd]

/-- R97: an idle engine that is offered nothing holds its state. -/
theorem step_of_idle (hb : s.busy = false) (hr : s.rst = false) (hv : s.cmdValid = false) : step s = .next s := by
  simp [step, hb, hr, hv, offered]

/-- R22, R97: and so it does for any number of steps. -/
theorem run_of_idle (k : Nat) (hb : s.busy = false) (hr : s.rst = false) (hv : s.cmdValid = false) :
    Host.Core.run Sys2Proof.core k s = .next s := by
  induction k with
  | zero => exact run_zero s
  | succ k ih => rw [run_succ_of_next k (step_of_idle hb hr hv), ih]

end

/-! ## The step of a busy engine -/

/-- R19: what the host puts on `cmd_valid` and `cmd`. -/
def driveCmd (v : Bool) (w : Word) (s : State) : State := { s with cmdValid := v, cmd := w }

/-- R20: no transition of a command in progress looks at the pins of the next offer. -/
theorem tick_driveCmd (v : Bool) (w : Word) (s : State) :
    tick (driveCmd v w s) = (tick s).map (driveCmd v w) := by
  have hopr : (driveCmd v w s).opr = s.opr := rfl
  unfold tick
  rw [hopr]
  split
  · change (if s.k = 0 then _ else _) = Option.map _ (if s.k = 0 then _ else _)
    split <;> rfl
  · rfl
  · change (if s.i = s.b then _ else _) = Option.map _ (if s.i = s.b then _ else _)
    split
    · rfl
    · rw [Option.map_map]; rfl
  · rfl
  · rfl
  · rfl

section
variable {s t : State}

/-- R30, R19: a transition of a command in progress leaves the host's pins and its buffer alone. -/
theorem tick_keeps_host (h : tick s = some t) :
    t.buf = s.buf ∧ t.rst = s.rst ∧ t.cmdValid = s.cmdValid ∧ t.cmd = s.cmd := by
  rcases tick_cases h with ⟨v, rfl⟩ | ⟨-, -, rfl⟩ | ⟨v, -, -, -, rfl⟩ | ⟨-, rfl⟩ <;>
    exact ⟨rfl, rfl, rfl, rfl⟩

/-- R25, R87: a busy engine out of reset makes its enabled transition, or is stuck where none is enabled. -/
theorem step_busy_cases (hb : s.busy = true) (hr : s.rst = false) :
    (∃ t, tick s = some t ∧ step s = .next t) ∨ (tick s = none ∧ step s = .fault .stuck) := by
  cases h : tick s with
  | none => exact .inr ⟨rfl, step_of_tick_none hr hb h⟩
  | some t => exact .inl ⟨t, rfl, step_of_tick hr hb h⟩

theorem tick_of_step_busy (hb : s.busy = true) (hr : s.rst = false) (h : step s = .next t) : tick s = some t := by
  rcases step_busy_cases hb hr with ⟨u, hu, hs⟩ | ⟨-, hs⟩
  · rw [hu, Host.Outcome.next.inj (hs.symm.trans h)]
  · cases hs.symm.trans h

/-- R25: a busy engine out of reset that stays busy has shifted one bit or folded one byte. -/
theorem step_busy_progress (hb : s.busy = true) (hr : s.rst = false) (h : step s = .next t) (ht : t.busy = true) :
    (s.opr = 0 ∧ s.k ≠ 0 ∧ t = shiftOnce s) ∨
    (∃ v, s.opr = 2 ∧ s.i ≠ s.b ∧ memRead s s.i = some v ∧ t = foldOnce v s) := by
  rcases tick_cases (tick_of_step_busy hb hr h) with ⟨v, rfl⟩ | hshift | hfold | ⟨-, rfl⟩
  · cases ht
  · exact .inl hshift
  · exact .inr hfold
  · cases ht

/-- R15: a shift takes exactly 1 from the bit counter. -/
theorem shiftOnce_k_toNat (hk : s.k ≠ 0) : (shiftOnce s).k.toNat + 1 = s.k.toNat := by
  have hpos : s.k.toNat ≠ 0 := fun e => hk (BitVec.eq_of_toNat_eq e)
  have hlt := s.k.isLt
  rw [shiftOnce_k, BitVec.toNat_sub]
  simp; omega

/-- R15: an index that has not reached the count advances by exactly 1: the count is a byte, so it cannot wrap. -/
theorem foldOnce_i_toNat (v : Byte) (hi : s.i.toNat < s.b.toNat) : (foldOnce v s).i.toNat = s.i.toNat + 1 := by
  have hlt := s.b.isLt
  rw [foldOnce_i, toNat_add_one _ (by omega)]

/-- R21: an index that is at most the count and not the count is below it. -/
theorem index_lt_count (hle : s.i.toNat ≤ s.b.toNat) (hne : s.i ≠ s.b) : s.i.toNat < s.b.toNat :=
  Nat.lt_of_le_of_ne hle fun e => hne (BitVec.eq_of_toNat_eq e)

/-- R21: an idle engine with the sequencing invariant asks for no byte. -/
theorem State.Inv.bufReq_of_idle (h : s.Inv) (hb : s.busy = false) : s.bufReq = false := by
  obtain ⟨-, -, -, -, hreq⟩ := h
  cases hq : s.bufReq with
  | false => rfl
  | true => rw [(hreq hq).1] at hb; cases hb

end

/-! ## The state right after acceptance -/

section
variable (i : Instr) (s : State)

@[simp] theorem begin_busy : (begin i s).busy = true := by cases i <;> rfl
@[simp] theorem begin_rspValid : (begin i s).rspValid = false := by cases i <;> rfl

end

/-- R18, R20: the opcode and the three operand bytes of the offered word are latched, field C also where it is not used. -/
theorem begin_latches {s : State} {w : Word} {i : Instr} (hcmd : s.cmd = w) (hd : decode w = .command i) :
    (begin i s).opr = fieldOP w ∧ (begin i s).a = fieldA w ∧ (begin i s).b = fieldB w ∧
    (begin i s).c = fieldC w := by
  have hc : unusedC s = fieldC w := by rw [unusedC, hcmd]
  rcases decode_command_cases hd with ⟨ho, rfl⟩ | ⟨ho, rfl⟩ | ⟨ho, rfl⟩ | ⟨ho, rfl⟩ | ⟨ho, rfl⟩ <;>
    simp [begin, ho, hc]

/-! ## The reads of a fold depend on nothing but the buffer -/

theorem foldReads_congr {s s' : State} (m : Nat) (i r : Byte) (hb : i.toNat + m < 256)
    (h : ∀ j, i.toNat ≤ j → j < i.toNat + m → Memory.read s.buf j = Memory.read s'.buf j) :
    foldReads s m i r = foldReads s' m i r := by
  induction m generalizing i r with
  | zero => rfl
  | succ m ih =>
    have hi := toNat_add_one i (by omega)
    have hread : memRead s i = memRead s' i := h i.toNat (by omega) (by omega)
    rw [foldReads, foldReads, hread]
    cases memRead s' i with
    | none => rfl
    | some v => exact ih (i + 1) _ (by omega) fun j hj hj' => h j (by omega) (by omega)

/-- R24: the reads of a whole fold, from its first byte, depend on the first `n` bytes of the buffer. -/
theorem foldReads_congr_from_zero {s s' : State} (n r : Byte)
    (h : ∀ j, j < n.toNat → Memory.read s.buf j = Memory.read s'.buf j) :
    foldReads s n.toNat 0 r = foldReads s' n.toNat 0 r := by
  have hlt := n.isLt
  exact foldReads_congr n.toNat 0 r (by simpa using hlt) fun j _ hj => h j (by simpa using hj)

/-! ## Executing a command -/

/-- R74: a fold whose bytes the buffer holds responds with their fold. -/
theorem exec_foldN_of_serves {s : State} (crc n : Byte) (hwf : Memory.wf s.buf) (hn : n.toNat ≤ Memory.len s.buf) :
    exec (.foldN crc n) s = .next (respond (fold poly crc (Memory.bytes s.buf) n.toNat)
      (setIndex n false (accept 2 crc n (unusedC s) s))) := by
  simp only [exec, execFoldN, foldReads_from_zero s hwf n crc hn, if_true]

/-- R22: every command whose reads the buffer serves responds with the value its rule gives. -/
theorem exec_of_serves {s : State} {i : Instr} (hwf : Memory.wf s.buf) (hs : s.serves i) :
    ∃ u, exec i s = .next (respond (result (Memory.bytes s.buf) i) u) := by
  cases i with
  | foldN crc n => exact ⟨_, exec_foldN_of_serves crc n hwf hs⟩
  | referenceStep crc data => exact ⟨_, rfl⟩
  | fastStep crc data => exact ⟨_, rfl⟩
  | combine2 x y => exact ⟨_, rfl⟩
  | combine3 x y z => exact ⟨_, rfl⟩

/-- R16: acceptance writes all three status bits and reads none. -/
theorem accept_of_status_bits (op : BitVec 3) (x y z : Byte) (s : State) (b v f : Bool) :
    accept op x y z { s with busy := b, rspValid := v, rspFault := f } = accept op x y z s := rfl

/-- R16: no command reads a status bit. -/
theorem exec_of_status_bits (i : Instr) (s : State) (b v f : Bool) :
    exec i { s with busy := b, rspValid := v, rspFault := f } = exec i s := by
  cases i with
  | foldN crc n =>
    have hreads := foldReads_congr_from_zero (s := { s with busy := b, rspValid := v, rspFault := f }) (s' := s)
      n crc fun _ _ => rfl
    simp only [exec, execFoldN, hreads, accept_of_status_bits, unusedC]
  | referenceStep crc data => rfl
  | fastStep crc data => rfl
  | combine2 x y => rfl
  | combine3 x y z => rfl

/-! ## What the host sees (R19, R27) -/

section
variable {s s' : State}

/-- R27: with no response held neither response output has a value to read. -/
theorem read_refused_of_no_response (h : s.rspValid = false) :
    readCrc s = .error .noDefinedValue ∧ readFault s = .error .noDefinedValue := by
  simp [readCrc, readFault, h]

theorem readCrc_refused_of_fault (h : s.rspFault = true) : readCrc s = .error .noDefinedValue := by
  simp [readCrc, h]

theorem readBufIdx_refused_of_no_request (h : s.bufReq = false) : readBufIdx s = .error .noDefinedValue := by
  simp [readBufIdx, h]

theorem readCrc_of_response (hv : s.rspValid = true) (hf : s.rspFault = false) : readCrc s = .ok s.r := by
  simp [readCrc, hv, hf]

theorem cmdReady_iff : cmdReady s = true ↔ s.busy = false ∧ s.rst = false := by
  simp [cmdReady]

/-- R24: two responses with one value look alike, whatever else the engines hold, when no byte is requested. -/
theorem sameOutputs_respond (v : Byte) (hr : s.rst = s'.rst) (hq : s.bufReq = false) (hq' : s'.bufReq = false) :
    sameOutputs (respond v s) (respond v s') := by
  simp [sameOutputs, cmdReady, readCrc, readFault, readBufIdx, hr, hq, hq']

/-- R24, R90: two fault responses look alike: R cannot be read. -/
theorem sameOutputs_endIllegal (w : Word) (hr : s.rst = s'.rst) :
    sameOutputs (endIllegal w s) (endIllegal w s') := by
  simp [sameOutputs, cmdReady, readCrc, readFault, readBufIdx, hr]

/-- R24, R77: two engines that wait for the same index look alike: with no response held R cannot be read. -/
theorem sameOutputs_awaitByte (j r : Byte) (hb : s.busy = s'.busy) (hr : s.rst = s'.rst)
    (hv : s.rspValid = false) (hv' : s'.rspValid = false) :
    sameOutputs (awaitByte j r s) (awaitByte j r s') := by
  simp [sameOutputs, cmdReady, readCrc, readFault, readBufIdx, hb, hr, hv, hv']

/-- R24: a command shows the host the same from two states with no request, which for a fold hold the same bytes below its
count. -/
theorem exec_sameOutputs (i : Instr) (hr : s.rst = s'.rst) (hq : s.bufReq = false) (hq' : s'.bufReq = false)
    (hbuf : ∀ crc n, i = .foldN crc n → ∀ j, j < n.toNat → Memory.read s.buf j = Memory.read s'.buf j) :
    ∃ t t', exec i s = .next t ∧ exec i s' = .next t' ∧ sameOutputs t t' := by
  cases i with
  | foldN crc n =>
    have hreads := foldReads_congr_from_zero n crc (hbuf crc n rfl)
    simp only [exec, execFoldN, hreads]
    split
    · exact ⟨_, _, rfl, rfl, sameOutputs_respond _ hr rfl rfl⟩
    · exact ⟨_, _, rfl, rfl, sameOutputs_awaitByte _ _ rfl hr rfl rfl⟩
  | referenceStep crc data => exact ⟨_, _, rfl, rfl, sameOutputs_respond _ hr hq hq'⟩
  | fastStep crc data => exact ⟨_, _, rfl, rfl, sameOutputs_respond _ hr hq hq'⟩
  | combine2 x y => exact ⟨_, _, rfl, rfl, sameOutputs_respond _ hr hq hq'⟩
  | combine3 x y z => exact ⟨_, _, rfl, rfl, sameOutputs_respond _ hr hq hq'⟩

end

/-! ## The obligations -/

/-- Settles O51, reading by reading. -/
theorem unspecifiedReadRefused : Obligations.UnspecifiedReadRefused := fun _ =>
  ⟨read_refused_of_no_response, readCrc_refused_of_fault, readBufIdx_refused_of_no_request, readCrc_of_response⟩

/-- Settles O31: the latches by decoding the offered word, the rest because no transition of a busy engine looks at the
pins, and leaves them as the host drives them. -/
theorem commandAcceptance : Obligations.CommandAcceptance := by
  refine ⟨fun s w i hoff hd => ?_, fun s v w hb hr => ?_, fun s hb hr hv => step_of_idle hb hr hv,
    fun s t w i hb hr hv hcmd hstep hidle hd => ?_⟩
  · obtain ⟨-, -, -, hcmd⟩ := hoff
    exact ⟨begin_busy i s, begin_rspValid i s, by simp [cmdReady], begin_latches hcmd hd⟩
  · have hdriven := tick_driveCmd v w s
    rcases step_busy_cases hb hr with ⟨u, hu, hs⟩ | ⟨hu, hs⟩
    · rw [hu] at hdriven
      rw [hs, step_of_tick (s := { s with cmdValid := v, cmd := w }) hr hb hdriven]
      exact ⟨fun _ h => Host.Outcome.next.inj h ▸ rfl, nofun, nofun⟩
    · rw [hu] at hdriven
      rw [hs, step_of_tick_none (s := { s with cmdValid := v, cmd := w }) hr hb hdriven]
      exact ⟨nofun, fun _ h => h, nofun⟩
  · obtain ⟨-, hrst, hvalid, hkept⟩ := tick_keeps_host (tick_of_step_busy hb hr hstep)
    have hoff : t.offers w := ⟨hidle, hrst.trans hr, hvalid.trans hv, hkept.trans hcmd⟩
    exact ⟨hoff, step_of_offers_command hoff hd⟩

/-- Settles O32: a served command ends in `respond`, an illegal word in the fault entry, and an idle engine holds both. -/
theorem responseGivenAndHeld : Obligations.ResponseGivenAndHeld := by
  refine ⟨fun s i hwf hs => ?_, fun s w hoff hlow => ?_, fun s k hb hr hv => run_of_idle k hb hr hv⟩
  · obtain ⟨u, hu⟩ := exec_of_serves hwf hs
    exact ⟨_, hu, rfl, rfl, rfl, rfl, rfl⟩
  · obtain ⟨why, hd⟩ := decode_illegal_of_lowByte hlow
    exact ⟨_, step_of_offers_illegal hoff hd, rfl, rfl, rfl, readCrc_refused_of_fault rfl⟩

/-- Settles O37: acceptance overwrites the three bits before anything else of a command or an illegal word. -/
theorem statusBitsNotOperands : Obligations.StatusBitsNotOperands :=
  ⟨fun _ => cmdReady_iff, exec_of_status_bits,
    fun _ s b v f => congrArg takeIllegalCommand (accept_of_status_bits _ _ _ _ s b v f)⟩

/-- Settles O42: both steps are the same command's, or the same illegal word's; the invariant gives that neither idle
engine asks for a byte. -/
theorem noHiddenState : Obligations.NoHiddenState := by
  intro s s' w hinv hinv' hoff hoff' hbuf
  have ⟨hb, hrst, _, _⟩ := hoff
  have ⟨hb', hrst', _, _⟩ := hoff'
  have hr : s.rst = s'.rst := hrst.trans hrst'.symm
  cases hd : decode w with
  | command i =>
    rw [step_of_offers_command hoff hd, step_of_offers_command hoff' hd]
    exact exec_sameOutputs i hr (hinv.bufReq_of_idle hb) (hinv'.bufReq_of_idle hb')
      fun crc n hi => hbuf crc n (hd.trans (congrArg Decoded.command hi))
  | illegal why =>
    exact ⟨_, _, step_of_offers_illegal hoff hd, step_of_offers_illegal hoff' hd, sameOutputs_endIllegal w hr⟩

/-- Settles O45: a busy engine goes on only by a shift or a folded byte, and the invariant bounds the counter and the index
before it. -/
theorem indexNeverWraps : Obligations.IndexNeverWraps := by
  refine ⟨fun _ _ _ => rfl, fun s t hinv hb ho hr hstep ht => ?_, fun _ _ _ => rfl, fun s hinv hq => ?_,
    fun s t hinv hb ho hr hstep ht => ?_⟩
  · obtain ⟨-, -, hk8, -, -⟩ := hinv
    rcases step_busy_progress hb hr hstep ht with ⟨-, hk, rfl⟩ | ⟨v, ho', -, -, -⟩
    · exact ⟨shiftOnce_k_toNat hk, hk8 hb ho⟩
    · simp [ho] at ho'
  · obtain ⟨-, -, -, hfold, hreq⟩ := hinv
    obtain ⟨hb, ho⟩ := hreq hq
    obtain ⟨hle, hne⟩ := hfold hb ho
    have hlt := index_lt_count hle (hne.mp hq)
    have hbyte := s.b.isLt
    exact ⟨hlt, by omega⟩
  · obtain ⟨-, -, -, hfold, -⟩ := hinv
    obtain ⟨hle, -⟩ := hfold hb ho
    rcases step_busy_progress hb hr hstep ht with ⟨ho', -, -⟩ | ⟨v, -, hne, -, rfl⟩
    · simp [ho] at ho'
    · have hlt := index_lt_count hle hne
      have hnext := foldOnce_i_toNat v hlt
      exact ⟨hnext, by rw [hnext, foldOnce_b]; exact hlt, rfl⟩

end Sys2Proof.Machine
end

section
/-! PROOFS. The host's buffer (20_memory.md): what `MemRead` gives and the port shows, the one transition that makes a read,
and that no step writes what is the host's. -/

namespace Sys2Proof.Machine

/-! ## MemRead and the port that shows it (R19, R29) -/

section
variable {s : State} {i : Byte}

/-- R29: where i < len the read gives BUF[i]. -/
theorem memRead_eq_getElem (hwf : Memory.wf s.buf) (h : i.toNat < (Memory.bytes s.buf).length) :
    memRead s i = some (Memory.bytes s.buf)[i.toNat] := by
  rw [memRead_of_wf s hwf, List.getElem?_eq_getElem h]

/-- R29: the read is not admitted exactly where i ≥ len. -/
theorem memRead_eq_none_iff (hwf : Memory.wf s.buf) : memRead s i = none ↔ Memory.len s.buf ≤ i.toNat := by
  rw [memRead_of_wf s hwf, List.getElem?_eq_none_iff, Memory.length_bytes]

/-- R21: an acknowledgement is a request for an index the buffer holds. -/
theorem bufAck_iff : bufAck s = true ↔ s.bufReq = true ∧ (memRead s s.i).isSome = true := by
  simp [bufAck]

/-- R21, R29: a request is acknowledged exactly where its index is below `len`. -/
theorem bufAck_iff_lt_len (hwf : Memory.wf s.buf) (hq : s.bufReq = true) :
    bufAck s = true ↔ s.i.toNat < Memory.len s.buf := by
  rw [bufAck_iff, and_iff_right hq]
  exact Memory.read_isSome_iff s.buf hwf s.i.toNat

/-- R19, R21: with the acknowledgement the port carries the byte that the read gives. -/
theorem bufData_of_ack (h : bufAck s = true) : ∃ v, memRead s s.i = some v ∧ bufData s = .ok v := by
  obtain ⟨hq, hread⟩ := bufAck_iff.mp h
  obtain ⟨v, hv⟩ := Option.isSome_iff_exists.mp hread
  exact ⟨v, hv, by simp [bufData, hq, hv]⟩

/-- R73: below its count a fold's one transition is the use of the byte it reads; none where the read is not admitted. -/
theorem tick_fold_of_ne_count (ho : s.opr = 2) (hne : s.i ≠ s.b) :
    tick s = (memRead s s.i).map fun v => foldOnce v s := by
  simp [tick, ho, hne]

end

/-! ## No step writes what is the host's (R30) -/

/-- R30, R19: a step of any kind leaves the host's buffer and its pins alone. -/
theorem step_keeps_host {s t : State} (h : step s = .next t) :
    t.buf = s.buf ∧ t.rst = s.rst ∧ t.cmdValid = s.cmdValid ∧ t.cmd = s.cmd := by
  rcases step_cases h with ⟨-, rfl⟩ | ⟨-, -, htick⟩ | ⟨-, -, -, rfl⟩ | ⟨w, i, -, -, hexec⟩ | ⟨w, why, -, -, rfl⟩
  · exact ⟨resetEngine_buf s, resetEngine_rst s, resetEngine_cmdValid s, resetEngine_cmd s⟩
  · exact tick_keeps_host htick
  · exact ⟨rfl, rfl, rfl, rfl⟩
  · obtain ⟨hbuf, hrst, hvalid, hcmd, -⟩ := exec_keeps_host hexec
    exact ⟨hbuf, hrst, hvalid, hcmd⟩
  · exact ⟨endIllegal_buf w s, endIllegal_rst w s, endIllegal_cmdValid w s, endIllegal_cmd w s⟩

/-! ## The obligations -/

/-- Settles O21: a canonical buffer is read through its bytes, and a fold's transition is there exactly where the read gives
a byte. -/
theorem bufferRead : Obligations.BufferRead := by
  intro s i hwf
  refine ⟨fun h => memRead_eq_getElem hwf (by rwa [Memory.length_bytes]), (memRead_eq_none_iff hwf).mpr,
    bufAck_iff_lt_len hwf, bufData_of_ack, fun hr hb ho hne => ⟨fun v hv => ?_, fun hlen => ?_⟩⟩
  · have htick : tick s = some (foldOnce v s) := by rw [tick_fold_of_ne_count ho hne, hv]; rfl
    exact step_of_tick hr hb htick
  · have hnone : tick s = none := by
      rw [tick_fold_of_ne_count ho hne, (memRead_eq_none_iff hwf).mpr hlen]; rfl
    exact step_of_tick_none hr hb hnone

/-- Settles O29: what a read gives depends on the buffer alone, which no step writes. -/
theorem hostInputsNeverWritten : Obligations.HostInputsNeverWritten := by
  intro s t h
  obtain ⟨hbuf, hpins⟩ := step_keeps_host h
  exact ⟨fun i => by rw [hbuf], hbuf, hpins⟩

end Sys2Proof.Machine
end

section
/-! PROOFS. The command word (30_encoding.md): decoding by the fields, in the order of the opcodes, and which words are
commands; the canonical words; the field a command does not use; the pseudo-operations; then the obligations. -/

namespace Sys2Proof.Machine

/-! ## Decoding a word made of its fields (R53) -/

section
variable (c b a : Byte)

theorem decode_wordOfFields_referenceStep :
    decode (wordOfFields c b a 0 0) = .command (.referenceStep a b) := by simp [decode]

theorem decode_wordOfFields_fastStep :
    decode (wordOfFields c b a 0 1) = .command (.fastStep a b) := by simp [decode]

theorem decode_wordOfFields_foldN :
    decode (wordOfFields c b a 0 2) = .command (.foldN a b) := by simp [decode]

theorem decode_wordOfFields_combine2 :
    decode (wordOfFields c b a 0 3) = .command (.combine2 a b) := by simp [decode]

theorem decode_wordOfFields_combine3 :
    decode (wordOfFields c b a 0 4) = .command (.combine3 a b c) := by simp [decode]

end

/-- R45: the integer form fixes the word. -/
theorem eq_wordOfFields {w : Word} {c b a : Byte} {z : BitVec 5} {op : BitVec 3}
    (h : w.toNat = c.toNat * 2 ^ 24 + b.toNat * 2 ^ 16 + a.toNat * 2 ^ 8 + z.toNat * 2 ^ 3 + op.toNat) :
    w = wordOfFields c b a z op :=
  BitVec.eq_of_toNat_eq (h.trans (wordOfFields_toNat c b a z op).symm)

/-! ## Which words are commands (R50) -/

section
variable {w : Word} {i : Instr}

/-- R53 read backwards: a word decodes as illegal for its field Z, or for an opcode that names no operation. -/
theorem decode_illegal_cases {why : IllegalCause} (h : decode w = .illegal why) :
    fieldZ w ≠ 0 ∨ 5 ≤ (fieldOP w).toNat := by
  unfold decode at h
  split at h
  · split at h
    iterate 5 cases h
    next h0 h1 h2 h3 h4 =>
      rw [imp_false] at h0 h1 h2 h3 h4
      exact .inr (by omega)
  · next hz => exact .inl hz

theorem four_lt_lowByte_iff : 4 < lowByte w ↔ fieldZ w ≠ 0 ∨ 5 ≤ (fieldOP w).toNat := by
  have hop := (fieldOP w).isLt
  have hz : fieldZ w = 0 ↔ (fieldZ w).toNat = 0 := BitVec.toNat_eq
  rw [lowByte_eq, Ne, hz]
  omega

theorem decode_illegal_iff : (∃ why, decode w = .illegal why) ↔ 4 < lowByte w :=
  ⟨fun ⟨_, h⟩ => four_lt_lowByte_iff.mpr (decode_illegal_cases h), decode_illegal_of_lowByte⟩

theorem decode_command_iff : (∃ i, decode w = .command i) ↔ lowByte w ≤ 4 := by
  rw [← not_lt, ← decode_illegal_iff]
  cases decode w <;> simp

/-- R47: a command's opcode is its word's field OP, which with Z = 0 is the whole low byte. -/
theorem decode_command_opcode (h : decode w = .command i) :
    fieldZ w = 0 ∧ fieldOP w = i.opcode ∧ lowByte w = i.opcode.toNat := by
  have hlegal : ¬ 4 < lowByte w := not_lt.mpr (decode_command_iff.mp ⟨i, h⟩)
  have hz : fieldZ w = 0 := by
    by_contra hz
    exact hlegal (four_lt_lowByte_iff.mpr (.inl hz))
  have hop : fieldOP w = i.opcode := by
    rcases decode_command_cases h with ⟨ho, rfl⟩ | ⟨ho, rfl⟩ | ⟨ho, rfl⟩ | ⟨ho, rfl⟩ | ⟨ho, rfl⟩ <;> exact ho
  exact ⟨hz, hop, by rw [lowByte_eq, hz, hop]; simp⟩

end

/-- R50: the opcodes that name no operation. -/
theorem five_le_opcode_iff : ∀ op : BitVec 3, 5 ≤ op.toNat ↔ op = 5 ∨ op = 6 ∨ op = 7 := by decide

/-- A row of the opcode table that gives the low byte alone is a command's exactly up to 0x04. -/
theorem decodeTableWord_isSome {v : Nat} (hv : v < 256) : (decodeTableWord 8 v).isSome = decide (v ≤ 4) := by
  have hlow : lowByte (tableWord 8 v) = v := by
    rw [lowByte_toNat, tableWord, BitVec.toNat_ofNat]
    omega
  have hcommand := decode_command_iff (w := tableWord 8 v)
  rw [hlow] at hcommand
  rw [Bool.eq_iff_iff, decide_eq_true_iff, ← hcommand, decodeTableWord]
  cases decode (tableWord 8 v) <;> simp

/-! ## Canonical words (R54) -/

theorem decode_encode (i : Instr) : decode (encode i) = .command i := by
  cases i with
  | referenceStep crc data => exact decode_wordOfFields_referenceStep 0 data crc
  | fastStep crc data => exact decode_wordOfFields_fastStep 0 data crc
  | foldN crc n => exact decode_wordOfFields_foldN 0 n crc
  | combine2 x y => exact decode_wordOfFields_combine2 0 y x
  | combine3 x y z => exact decode_wordOfFields_combine3 z y x

/-- The laws of Laws/PerInstr.lean, for whichever command. -/
theorem legalWord_statement (i : Instr) : Laws.LegalWord.Statement i := by
  cases i with
  | referenceStep crc data => exact Laws.LegalWord.referenceStep crc data
  | fastStep crc data => exact Laws.LegalWord.fastStep crc data
  | foldN crc n => exact Laws.LegalWord.foldN crc n
  | combine2 x y => exact Laws.LegalWord.combine2 x y
  | combine3 x y z => exact Laws.LegalWord.combine3 x y z

theorem canonicalWord_iff {w : Word} :
    canonicalWord w = true ↔ lowByte w ≤ 4 ∧ (lowByte w ≠ 4 → fieldC w = 0) := by
  simp [canonicalWord, legalWord, or_iff_not_imp_left]

/-- R54: a canonical word is remade from the command it decodes to: that command's word has every field the word has. -/
theorem encode_of_decode {w : Word} {i : Instr} (hcanon : canonicalWord w = true) (h : decode w = .command i) :
    encode i = w := by
  obtain ⟨hz, hop, hlow⟩ := decode_command_opcode h
  obtain ⟨-, hc⟩ := canonicalWord_iff.mp hcanon
  rw [hlow] at hc
  have hw := wordOfFields_fields w
  rw [hz, hop] at hw
  rcases decode_command_cases h with ⟨-, rfl⟩ | ⟨-, rfl⟩ | ⟨-, rfl⟩ | ⟨-, rfl⟩ | ⟨-, rfl⟩
  case inr.inr.inr.inr => exact hw
  all_goals
    rw [hc (by simp [Instr.opcode])] at hw
    exact hw

/-! ## The field a command does not use (R49) -/

section
variable {w w' : Word}

/-- R49: but for opcode 4 a word's meaning is that of its fields Z, OP, A and B. -/
theorem decode_congr_of_unusedC (hz : fieldZ w = fieldZ w') (hop : fieldOP w = fieldOP w')
    (ha : fieldA w = fieldA w') (hb : fieldB w = fieldB w') (h4 : (fieldOP w').toNat ≠ 4) : decode w = decode w' := by
  unfold decode
  rw [hz, hop, ha, hb]
  split
  · split
    case h_5 ho => exact absurd ho h4
    all_goals rfl
  · rfl

/-- R45: the low 24 bits hold every field but C. -/
theorem fields_of_low24 (h : w.toNat % 2 ^ 24 = w'.toNat % 2 ^ 24) :
    fieldZ w = fieldZ w' ∧ fieldOP w = fieldOP w' ∧ fieldA w = fieldA w' ∧ fieldB w = fieldB w' := by
  refine ⟨?_, ?_, ?_, ?_⟩ <;> apply BitVec.eq_of_toNat_eq
  · rw [fieldZ_toNat, fieldZ_toNat]; omega
  · rw [fieldOP_toNat, fieldOP_toNat]; omega
  · rw [fieldA_toNat, fieldA_toNat]; omega
  · rw [fieldB_toNat, fieldB_toNat]; omega

end

/-- R49: a command that does not use field C does the same whatever word is on the pins, but for the latch of that field. -/
theorem exec_of_cmd {i : Instr} (hi : i.opcode ≠ 4) (w' : Word) (s : State) :
    ∃ t, exec i s = .next t ∧ exec i { s with cmd := w' } = .next { t with cmd := w', c := fieldC w' } := by
  cases i with
  | foldN crc n =>
    have hreads : foldReads { s with cmd := w' } n.toNat 0 crc = foldReads s n.toNat 0 crc :=
      foldReads_congr_from_zero n crc fun _ _ => rfl
    simp only [exec, execFoldN, hreads]
    split <;> exact ⟨_, rfl, rfl⟩
  | referenceStep crc data => exact ⟨_, rfl, rfl⟩
  | fastStep crc data => exact ⟨_, rfl, rfl⟩
  | combine2 x y => exact ⟨_, rfl, rfl⟩
  | combine3 x y z => exact absurd rfl hi

/-! ## The commands of the pseudo-operations (R56) -/

theorem exec_fastStep (crc data : Byte) (s : State) :
    exec (.fastStep crc data) s =
      .next (respond (fastStep poly crc data) (accept 1 crc data (unusedC s) s)) := rfl

/-- R72: the fold of a whole buffer is the chain of fast steps over its bytes. -/
theorem fold_length (p c : Byte) (vs : List Byte) : fold p c vs vs.length = vs.foldl (fastStep p) c := by
  rw [fold, List.take_length]

/-- R56, R74: a fold of exactly the bytes served responds with their chain of fast steps. -/
theorem exec_foldN_serve {vs : List Byte} {n : Byte} (hn : n.toNat = vs.length) (crc : Byte) (s : State) :
    ∃ u, exec (.foldN crc n) (serve vs s) = .next (respond (vs.foldl (fastStep poly) crc) u) := by
  have hserved : n.toNat ≤ Memory.len (serve vs s).buf := by simp [hn]
  have hexec := exec_foldN_of_serves crc n (serve_wf vs s) hserved
  rw [serve_buf, Memory.bytes_ofBytes, hn, fold_length] at hexec
  exact ⟨_, hexec⟩

/-! ## The obligations -/

/-- Settles O2: a command's word decodes by its fields; where encode of decode is the word, the word is canonical because a
command's word is, and a canonical word is remade from its own fields. -/
theorem decodeEncodeRoundTrip : Obligations.DecodeEncodeRoundTrip := by
  refine ⟨fun i _ => decode_encode i, fun w => ?_, ?_, ?_, ?_, ?_, ?_, by decide, by decide, by decide⟩
  · rw [← canonicalWord_iff]
    constructor
    · rintro ⟨i, -, rfl⟩
      obtain ⟨-, hcanon, -⟩ := legalWord_statement i
      exact hcanon
    · intro hcanon
      obtain ⟨hlegal, -⟩ := canonicalWord_iff.mp hcanon
      obtain ⟨i, hd⟩ := decode_command_iff.mpr hlegal
      exact ⟨i, hd, encode_of_decode hcanon hd⟩
  all_goals
    intros
    simp [encode, wordOfFields_toNat]

/-- Settles O1: the five values are the word's own fields, by which it decodes. -/
theorem fieldsDecode : Obligations.FieldsDecode := by
  refine ⟨fun w => ⟨fieldC w, fieldB w, fieldA w, fieldZ w, fieldOP w, ?_⟩, fun w c b a z op h => ?_⟩
  · rw [← wordOfFields_toNat, wordOfFields_fields]
  obtain rfl := eq_wordOfFields h
  refine ⟨fun hz => ?_, ?_⟩
  · exact decode_illegal_of_lowByte (four_lt_lowByte_iff.mpr (.inl (by rwa [fieldZ_wordOfFields])))
  rintro rfl
  refine ⟨fun hop => hop ▸ decode_wordOfFields_referenceStep c b a, fun hop => hop ▸ decode_wordOfFields_fastStep c b a,
    fun hop => hop ▸ decode_wordOfFields_foldN c b a, fun hop => hop ▸ decode_wordOfFields_combine2 c b a,
    fun hop => hop ▸ decode_wordOfFields_combine3 c b a, fun hop => ?_⟩
  have hop5 := (five_le_opcode_iff op).mpr hop
  exact decode_illegal_of_lowByte (four_lt_lowByte_iff.mpr (.inr (by rwa [fieldOP_wordOfFields])))

/-- Settles O4: the words agree in every field but C, which neither their decoding nor the command's execution looks at. -/
theorem unusedFieldIgnored : Obligations.UnusedFieldIgnored := by
  intro w w' h24 hlow
  obtain ⟨hz, hop, ha, hb⟩ := fields_of_low24 h24
  obtain ⟨i, hd⟩ := decode_command_iff.mpr (hlow.trans (by decide))
  obtain ⟨-, hfield, hlowOp⟩ := decode_command_opcode hd
  have hi : i.opcode.toNat ≠ 4 := by omega
  have hsame : decode w = decode w' := decode_congr_of_unusedC hz hop ha hb (by rwa [← hop, hfield])
  refine ⟨hsame, fun s hoff => ?_⟩
  obtain ⟨t, ht, ht'⟩ := exec_of_cmd (fun e => hi (congrArg BitVec.toNat e)) w' s
  have ⟨hbusy, hrst, hvalid, _⟩ := hoff
  have hoff' : State.offers { s with cmd := w' } w' := ⟨hbusy, hrst, hvalid, rfl⟩
  exact ⟨t, (step_of_offers_command hoff hd).trans ht,
    (step_of_offers_command hoff' (hsame.symm.trans hd)).trans ht'⟩

/-- Settles O5: illegal is a low byte above 0x04, which the counts and the step of an offered word follow. -/
theorem illegalWords : Obligations.IllegalWords := by
  have hsome : ∀ v ∈ List.range 256, (decodeTableWord 8 v).isSome = decide (v ≤ 4) :=
    fun v hv => decodeTableWord_isSome (List.mem_range.mp hv)
  have hnone : ∀ v ∈ List.range 256, (decodeTableWord 8 v).isNone = !decide (v ≤ 4) :=
    fun v hv => by rw [← hsome v hv, Option.not_isSome]
  refine ⟨fun w => ?_, fun w => decode_illegal_iff, ?_, ?_, fun s w hoff hlow => ⟨?_, rfl⟩⟩
  · rw [decode_illegal_iff, four_lt_lowByte_iff, five_le_opcode_iff]
  · rw [List.filter_congr hnone]; decide +kernel
  · rw [List.filter_congr hsome]; decide +kernel
  · obtain ⟨why, hd⟩ := decode_illegal_of_lowByte hlow
    exact step_of_offers_illegal hoff hd

/-- Settles O27: a fold of the bytes served responds with the chain of fast steps that the expansions make; what the host
reads of a response is its value, by definition. -/
theorem pseudoOperations : Obligations.PseudoOperations := by
  refine ⟨fun c v s => ?_, fun x y s => ?_, fun x y z s => ?_, fun c x y s => ?_⟩
  · obtain ⟨u, hu⟩ := exec_foldN_serve (vs := [v]) (n := 1) rfl c s
    exact ⟨_, _, exec_fastStep .., hu, rfl⟩
  · obtain ⟨u, hu⟩ := exec_foldN_serve (vs := [x, y]) (n := 2) rfl seed s
    exact ⟨_, _, _, _, exec_fastStep .., exec_fastStep .., hu, rfl, rfl, rfl⟩
  · obtain ⟨u, hu⟩ := exec_foldN_serve (vs := [x, y, z]) (n := 3) rfl seed s
    exact ⟨_, _, _, _, _, exec_fastStep .., exec_fastStep .., exec_fastStep .., hu, rfl, rfl, rfl⟩
  · obtain ⟨u, hu⟩ := exec_foldN_serve (vs := [x, y]) (n := 2) rfl c s
    exact ⟨_, _, _, exec_fastStep .., exec_fastStep .., hu, rfl⟩

end Sys2Proof.Machine
end

section
/-! PROOFS. The byte step (40_step.md). A clock of the shift register is multiplication by x modulo x^8 + POLY, so the step is
the remainder R59 names; its first shifts, one after another, are the engine's; and it is linear, so that its answers to the
eight single bits give its answer to every pair of bytes. Then the two commands, and the obligations. -/

namespace Sys2Proof

/-! ## A clock is multiplication by x modulo G(x) = x^8 + POLY (R58) -/

section
open Machine
open Polynomial (X)

variable {p c d r : Byte} {P C D R : Polynomial (ZMod 2)}

theorem PolyOf.degree_lt (h : PolyOf r R) : R.degree < 8 :=
  (Polynomial.degree_lt_iff_coeff_zero R 8).mpr fun j hj => by simp [h j, BitVec.getLsbD_of_ge r j hj]

theorem PolyOf.xor (hc : PolyOf c C) (hd : PolyOf d D) : PolyOf (c ^^^ d) (C + D) := by
  intro j
  rw [Polynomial.coeff_add, hc j, hd j, BitVec.getLsbD_xor]
  cases c.getLsbD j <;> cases d.getLsbD j <;> decide

theorem monic_modulus (hp : PolyOf p P) : (X ^ 8 + P).Monic :=
  Polynomial.monic_X_pow_add hp.degree_lt

theorem degree_modulus (hp : PolyOf p P) : (X ^ 8 + P).degree = 8 := by
  have hlt : P.degree < (X ^ 8 : Polynomial (ZMod 2)).degree := by
    rw [Polynomial.degree_X_pow]
    exact hp.degree_lt
  rw [Polynomial.degree_add_eq_left_of_degree_lt hlt, Polynomial.degree_X_pow]
  rfl

/-- A byte's polynomial is its own remainder. -/
theorem PolyOf.modByMonic_eq (hp : PolyOf p P) (hr : PolyOf r R) : R %ₘ (X ^ 8 + P) = R :=
  (Polynomial.modByMonic_eq_self_iff (monic_modulus hp)).mpr (degree_modulus hp ▸ hr.degree_lt)

theorem getLsbD_shiftLeft_one_succ (r : Byte) {j : Nat} (hj : j ≠ 7) : (r <<< 1).getLsbD (j + 1) = r.getLsbD j := by
  rcases Nat.lt_or_gt_of_ne hj with hlt | hgt
  · simp [BitVec.getLsbD_shiftLeft, Nat.add_lt_add_right hlt 1, -BitVec.getLsbD_eq_getElem]
  · rw [BitVec.getLsbD_of_ge r j hgt, BitVec.getLsbD_of_ge _ _ (by omega)]

/-- R58: shifting left multiplies by x and drops the coefficient of x^8, the register's bit 7. -/
theorem PolyOf.shiftLeft (hr : PolyOf r R) : PolyOf (r <<< 1) (X * R + if r.getLsbD 7 then X ^ 8 else 0) := by
  intro j
  rcases j with _ | j
  · cases r.getLsbD 7 <;> simp
  rw [Polynomial.coeff_add, Polynomial.coeff_X_mul, hr j]
  by_cases hj : j = 7
  · subst hj
    cases r.getLsbD 7
    · simp
    · simpa using CharTwo.add_self_eq_zero (1 : ZMod 2)
  · rw [getLsbD_shiftLeft_one_succ r hj]
    cases r.getLsbD 7 <;> simp [Polynomial.coeff_X_pow, hj]

theorem shift1_of_feedback {b : Bool} (h : (r.getLsbD 7 ^^ b) = true) : shift1 p r b = (r <<< 1) ^^^ p := if_pos h

theorem shift1_of_no_feedback {b : Bool} (h : (r.getLsbD 7 ^^ b) = false) : shift1 p r b = r <<< 1 :=
  if_neg (Bool.eq_false_iff.mp h)

/-- R58: the clock is x·r(x) + b·x^8, with G(x) added where the feedback is 1: that takes the coefficient of x^8 away. -/
theorem PolyOf.shift1_add (b : Bool) (hp : PolyOf p P) (hr : PolyOf r R) :
    PolyOf (shift1 p r b)
      (X * R + (if b then X ^ 8 else 0) + if r.getLsbD 7 ^^ b then X ^ 8 + P else 0) := by
  have hshift := hr.shiftLeft
  cases hfb : r.getLsbD 7 ^^ b with
  | false =>
    obtain rfl : r.getLsbD 7 = b := by simpa using hfb
    rw [shift1_of_no_feedback hfb]
    simpa using hshift
  | true =>
    have hcancel : (if r.getLsbD 7 then X ^ 8 else 0 : Polynomial (ZMod 2)) = (if b then X ^ 8 else 0) + X ^ 8 := by
      cases h7 : r.getLsbD 7 <;> cases b <;> simp_all [CharTwo.add_self_eq_zero]
    have hxor := hshift.xor hp
    rw [hcancel] at hxor
    rw [shift1_of_feedback hfb]
    simpa [add_assoc] using hxor

/-- R58: so it is the remainder of x·r(x) + b·x^8. -/
theorem PolyOf.shift1_modByMonic (b : Bool) (hp : PolyOf p P) (hr : PolyOf r R) :
    PolyOf (shift1 p r b) ((X * R + (if b then X ^ 8 else 0)) %ₘ (X ^ 8 + P)) := by
  have hadd := hp.shift1_add b hr
  have hdvd : X ^ 8 + P ∣ (X * R + (if b then X ^ 8 else 0)) -
      (X * R + (if b then X ^ 8 else 0) + if r.getLsbD 7 ^^ b then X ^ 8 + P else 0) := by
    rw [sub_add_cancel_left, dvd_neg]
    split
    · exact dvd_rfl
    · exact dvd_zero _
  rwa [Polynomial.modByMonic_eq_of_dvd_sub (monic_modulus hp) hdvd, hp.modByMonic_eq hadd]

theorem PolyOf.iterate_clock (n : Nat) (hp : PolyOf p P) (hr : PolyOf r R) :
    PolyOf ((clock p)^[n] r) ((R * X ^ n) %ₘ (X ^ 8 + P)) := by
  induction n with
  | zero => rwa [pow_zero, mul_one, hp.modByMonic_eq hr]
  | succ n ih =>
    have hmul : (X * ((R * X ^ n) %ₘ (X ^ 8 + P))) %ₘ (X ^ 8 + P) = (R * X ^ (n + 1)) %ₘ (X ^ 8 + P) := by
      rw [Polynomial.mul_modByMonic, hp.modByMonic_eq ih, ← Polynomial.mul_modByMonic]
      ring_nf
    rw [Function.iterate_succ_apply', ← hmul]
    simpa [clock] using hp.shift1_modByMonic false ih

end

end Sys2Proof

namespace Sys2Proof.Machine

/-! ## The step shift by shift (R59) -/

/-- R59: the register after the first `n` shifts of a byte step, the data byte's bit 7 first. -/
def shifts (p c d : Byte) (n : Nat) : Byte :=
  (List.range n).foldl (fun r j => shift1 p r (d.getLsbD (7 - j))) c

@[simp] theorem shifts_zero (p c d : Byte) : shifts p c d 0 = c := rfl

theorem shifts_succ (p c d : Byte) (n : Nat) :
    shifts p c d (n + 1) = shift1 p (shifts p c d n) (d.getLsbD (7 - n)) := by
  simp [shifts, List.range_succ]

theorem shifts_eight (p c d : Byte) : shifts p c d 8 = refStep p c d := rfl

/-- The bit that `n` shifts of the data byte have brought to the top. -/
theorem getLsbD_seven_shiftLeft (d : Byte) {n : Nat} (hn : n ≤ 7) : (d <<< n).getLsbD 7 = d.getLsbD (7 - n) := by
  simp [BitVec.getLsbD_shiftLeft, Nat.not_lt.mpr hn, -BitVec.getLsbD_eq_getElem]

/-- A register that is its own data byte is shifted out: there is no feedback. -/
theorem shifts_self (p d : Byte) {n : Nat} (hn : n ≤ 8) : shifts p d d n = d <<< n := by
  induction n with
  | zero => simp
  | succ n ih =>
    have hbit := getLsbD_seven_shiftLeft d (n := n) (by omega)
    rw [shifts_succ, ih (by omega), ← hbit, shift1_self, BitVec.shiftLeft_add]

theorem refStep_self (p c : Byte) : refStep p c c = 0 := by
  rw [← shifts_eight, shifts_self p c le_rfl]
  exact BitVec.shiftLeft_eq_zero le_rfl

/-! ## The engine's shifts (R59) -/

section
variable {s : State} {n : Nat}

theorem tick_of_shift (ho : s.opr = 0) (hk : s.k ≠ 0) : tick s = some (shiftOnce s) := by
  have hop : s.opr.toNat = 0 := congrArg BitVec.toNat ho
  rw [tick, hop]
  exact if_neg hk

theorem run_shifts (hr : s.rst = false) (hb : s.busy = true) (ho : s.opr = 0) (hk : n ≤ s.k.toNat) :
    Host.Core.run Sys2Proof.core n s = .next (shiftOnce^[n] s) := by
  induction n generalizing s with
  | zero => exact run_zero s
  | succ n ih =>
    have hk0 : s.k ≠ 0 := by
      intro h
      simp [h] at hk
    have hcount := shiftOnce_k_toNat hk0
    rw [run_succ_of_next n (step_of_tick hr hb (tick_of_shift ho hk0)), Function.iterate_succ_apply]
    exact ih hr hb ho (by omega)

/-- R59: the data byte's bits come to the top of D in the order in which the step takes them. -/
theorem iterate_shiftOnce (hn : n ≤ 8) :
    shiftOnce^[n] s = { s with r := shifts poly s.r s.d n, d := s.d <<< n, k := s.k - BitVec.ofNat 4 n } := by
  induction n with
  | zero => simp
  | succ n ih =>
    have hbit := getLsbD_seven_shiftLeft s.d (n := n) (by omega)
    have hk : s.k - BitVec.ofNat 4 (n + 1) = s.k - BitVec.ofNat 4 n - 1 := by
      rw [BitVec.ofNat_add, sub_add_eq_sub_sub]
      rfl
    rw [Function.iterate_succ_apply', ih (by omega), shifts_succ, ← hbit, BitVec.shiftLeft_add, hk]
    rfl

end

/-! ## The byte-parallel form (R60) and the fast step (R64) -/

section
variable (p c d : Byte)

theorem refStep_eq_refStep_xor_zero : refStep p c d = refStep p (c ^^^ d) 0 := by
  simpa [refStep_self] using (refStep_xor p c d d d).symm

theorem refStep_comm : refStep p c d = refStep p d c := by
  rw [refStep_eq_refStep_xor_zero, BitVec.xor_comm, ← refStep_eq_refStep_xor_zero]

theorem refStep_eq_refStep_zero_xor : refStep p c d = refStep p 0 (c ^^^ d) := by
  rw [refStep_eq_refStep_xor_zero, refStep_comm]

theorem refStep_zero_linear : refStep p 0 (c ^^^ d) = refStep p 0 c ^^^ refStep p 0 d :=
  refStep_xor p 0 0 c d

theorem par8_eq_refStep (v : Byte) : par8 p v = refStep p v 0 := by
  have hclock : (fun u : Byte => if u.getLsbD 7 then (u <<< 1) ^^^ p else u <<< 1) = clock p := by
    funext u
    simp [clock, shift1]
  rw [par8, hclock, refStep_no_data]
  rfl

theorem refStep_eq_par8 : refStep p c d = par8 p (c ^^^ d) := by
  rw [par8_eq_refStep, ← refStep_eq_refStep_xor_zero]

theorem par8_xor : par8 p (c ^^^ d) = par8 p c ^^^ par8 p d := by
  simpa [par8_eq_refStep] using refStep_xor p c d 0 0

theorem fastStep_eq_refStep : fastStep p c d = refStep p c d := by
  rw [fastStep_eq_tableAt, tableAt_eq, ← refStep_eq_refStep_zero_xor]

theorem fastStep_self : fastStep p c c = 0 := by
  rw [fastStep_eq_refStep, refStep_self]

end

/-! ## The table (R63) and its entries at single bits (R67) -/

theorem table_getElem? (p : Byte) {i : Nat} (hi : i < 256) :
    (table p)[i]? = some (refStep p 0 (BitVec.ofNat 8 i)) := by
  simp [table, hi]

theorem refStep_zero_one (p : Byte) : refStep p 0 1 = p := refStep_one_bit p 0 (by decide)

/-- R67: at POLY = 0x00 a data bit leaves nothing in the register. -/
theorem tableAt_one_bit_of_zero_poly {k : Nat} (hk : k < 8) : tableAt 0 (1#8 <<< k) = 0 := by
  have hclock : clock 0 0 = 0 := by decide
  rw [tableAt_eq, refStep_one_bit 0 k hk, Function.iterate_fixed hclock]

theorem tableAt_one_bit_of_0x93 :
    (List.range 8).map (fun k => tableAt 0x93 (1#8 <<< k)) = [0x93, 0xB5, 0xF9, 0x61, 0xC2, 0x17, 0x2E, 0x5C] := by
  simp only [tableAt_eq]
  decide

/-! ## The network: the step of a byte from the steps of its bits (R69) -/

/-- A byte's bit `k` at its place, the other bits 0. -/
def bitAt (x : Byte) (k : Nat) : Byte := if x.getLsbD k then 1#8 <<< k else 0

theorem getLsbD_bitAt (x : Byte) (j k : Nat) : (bitAt x k).getLsbD j = (x.getLsbD k && decide (k = j)) := by
  unfold bitAt
  split
  · next hbit =>
    have hk : k < 8 := BitVec.lt_of_getLsbD hbit
    rw [hbit, Bool.true_and, ← BitVec.twoPow, BitVec.getLsbD_twoPow, decide_eq_true hk, Bool.true_and]
  · next hbit =>
    rw [Bool.eq_false_iff.mpr hbit, Bool.false_and]
    exact BitVec.getLsbD_zero

/-- A byte is the XOR of its bits. -/
theorem foldl_bitAt (x : Byte) : (List.range 8).foldl (fun v k => v ^^^ bitAt x k) 0 = x := by
  refine BitVec.eq_of_getLsbD_eq fun j hj => ?_
  have hbits := List.foldl_hom (l := List.range 8) (init := 0) (fun v : Byte => v.getLsbD j)
    (g₂ := fun b k => b ^^ (x.getLsbD k && decide (k = j))) fun v k => by
      rw [← getLsbD_bitAt, ← BitVec.getLsbD_xor]
  rw [← hbits]
  interval_cases j <;> simp [List.range_succ]

/-- R69: a bit of the data byte adds its table entry to the output. -/
theorem refStep_zero_xor_bitAt (p x v : Byte) (j k : Nat) :
    (refStep p 0 (v ^^^ bitAt x k)).getLsbD j =
      ((refStep p 0 v).getLsbD j ^^ (x.getLsbD k && (tableAt p (1#8 <<< k)).getLsbD j)) := by
  rw [refStep_zero_linear, BitVec.getLsbD_xor, tableAt_eq, bitAt]
  cases x.getLsbD k <;> simp [refStep_self]

theorem getLsbD_fastStep (p c d : Byte) (j : Nat) :
    (fastStep p c d).getLsbD j =
      ((List.range 8).map fun k => (c ^^^ d).getLsbD k && (tableAt p (1#8 <<< k)).getLsbD j).foldl xor false := by
  have hnetwork := List.foldl_hom (l := List.range 8) (init := 0) (fun v => (refStep p 0 v).getLsbD j)
    (g₂ := fun b k => b ^^ ((c ^^^ d).getLsbD k && (tableAt p (1#8 <<< k)).getLsbD j))
    fun v k => (refStep_zero_xor_bitAt p (c ^^^ d) v j k).symm
  rw [foldl_bitAt, refStep_self, BitVec.ofNat_eq_ofNat, BitVec.getLsbD_zero] at hnetwork
  rw [fastStep_eq_tableAt, tableAt_eq, List.foldl_map]
  exact hnetwork.symm

/-- R69: the network at POLY = 0x93, the table's entries put in. -/
theorem getLsbD_fastStep_of_0x93 (c d : Byte) (j : Nat) :
    (fastStep 0x93 c d).getLsbD j =
      (List.zipWith (fun k (t : Byte) => (c ^^^ d).getLsbD k && t.getLsbD j) (List.range 8)
        [0x93, 0xB5, 0xF9, 0x61, 0xC2, 0x17, 0x2E, 0x5C]).foldl xor false := by
  rw [getLsbD_fastStep, ← tableAt_one_bit_of_0x93, List.zipWith_map_right, List.zipWith_self]

/-! ## Runs of zero bytes (R68) -/

theorem fold_leading_zeros (p : Byte) (n : Nat) (m : List Byte) :
    fold p 0 (List.replicate n 0 ++ m) (n + m.length) = fold p 0 m m.length := by
  induction n with
  | zero => simp
  | succ n ih => rw [List.replicate_succ, List.cons_append, Nat.add_right_comm, fold_cons, fastStep_self, ih]

/-! ## The two commands (R61, R65) -/

section
variable {w : Word}

/-- R47, R50: a legal low byte is the field OP, with Z = 0. -/
theorem fields_of_lowByte (h : lowByte w ≤ 4) : fieldZ w = 0 ∧ (fieldOP w).toNat = lowByte w := by
  obtain ⟨i, hd⟩ := decode_command_iff.mpr h
  obtain ⟨hz, hop, hlow⟩ := decode_command_opcode hd
  exact ⟨hz, by rw [hop, hlow]⟩

theorem decode_of_lowByte_zero (h : lowByte w = 0) :
    decode w = .command (.referenceStep (fieldA w) (fieldB w)) := by
  obtain ⟨hz, hop⟩ := fields_of_lowByte (h.trans_le (by decide))
  simp [decode, hz, hop, h]

theorem decode_of_lowByte_one (h : lowByte w = 1) :
    decode w = .command (.fastStep (fieldA w) (fieldB w)) := by
  obtain ⟨hz, hop⟩ := fields_of_lowByte (h.trans_le (by decide))
  simp [decode, hz, hop, h]

end

theorem exec_referenceStep (crc data : Byte) (s : State) :
    exec (.referenceStep crc data) s =
      .next (respond (refStep poly crc data) (setShifter 0 0 (accept 0 crc data (unusedC s) s))) := rfl

/-! ## The obligations -/

/-- Settles O6: the two cases of the feedback, the bits, and the clock as a remainder. -/
theorem shiftRegister : Obligations.ShiftRegister := by
  refine ⟨fun p r b => ⟨shift1_of_feedback, shift1_of_no_feedback⟩, shift1_bit_zero, fun p r b i hi hi7 => ?_,
    fun p r b P R hp hr => hp.shift1_modByMonic b hr, by decide, by decide, by decide⟩
  obtain ⟨j, rfl⟩ := Nat.exists_eq_add_of_le' hi
  exact shift1_bit_succ p r b j (by omega)

/-- Settles O7: the engine's eight transitions are the step's shifts; and the step is eight clocks of c(x) + d(x), each of
them a multiplication by x. -/
theorem referenceStepIsRemainder : Obligations.ReferenceStepIsRemainder := by
  refine ⟨fun p c d => rfl, fun c d s => ⟨rfl, rfl, rfl⟩,
    fun s hr hb ho hk => step_of_tick hr hb (tick_of_shift ho hk), fun s hr hb ho hk => ?_,
    fun p c d P C D hp hc hd => ?_⟩
  · have hk8 : s.k.toNat = 8 := congrArg BitVec.toNat hk
    have hout : s.d <<< 8 = 0 := BitVec.shiftLeft_eq_zero le_rfl
    rw [run_shifts hr hb ho hk8.ge, iterate_shiftOnce le_rfl, shifts_eight, hk, hout]
    rfl
  · rw [refStep_eq_refStep_xor_zero, refStep_no_data]
    exact hp.iterate_clock 8 (hc.xor hd)

/-- Settles O8, from the step being linear and 0x00 where the register is the data byte. -/
theorem byteParallelForm : Obligations.ByteParallelForm := fun p c d =>
  ⟨refStep_eq_refStep_zero_xor p c d, refStep_eq_par8 p c d, par8_xor p c d,
    (par8_eq_refStep p 0).trans (refStep_self p 0), (refStep_eq_par8 p c d).trans (par8_xor p c d),
    refStep_comm p c d, refStep_self p c⟩

/-- Settles O9: entry 0 is the step of a register equal to its data byte, entry 1 the step of the one bit that is last. -/
theorem tableEntries : Obligations.TableEntries := fun p =>
  ⟨table_length p, fun _ hi => table_getElem? p hi,
    (table_getElem? p (by decide)).trans (congrArg some (refStep_self p 0)),
    (table_getElem? p (by decide)).trans (congrArg some (refStep_zero_one p))⟩

/-- Settles O10: the two values are one, and the two commands differ only in latches and working registers, which no output
shows. -/
theorem fastEqualsReference : Obligations.FastEqualsReference := by
  refine ⟨fastStep_eq_refStep,
    fun p c d => ⟨List.getElem?_eq_getElem _, tableAt_eq p (c ^^^ d), fastStep_eq_refStep p c d⟩,
    fun c d s => ⟨_, _, exec_fastStep c d s, exec_referenceStep c d s, ?_⟩⟩
  rw [fastStep_eq_refStep]
  exact ⟨⟨rfl, rfl, rfl, rfl, rfl, rfl⟩, readCrc_of_response rfl rfl⟩

/-- Settles O11: a flip's difference is its own step from 0x00; and at the odd 0x93 the step, which is symmetric, is
injective. -/
theorem singleBitDetection : Obligations.SingleBitDetection := by
  refine ⟨fun p c d k _ => (refStep_xor_refStep_flip p c d _).trans (tableAt_eq p _).symm,
    fun p c d k hp hk => refStep_flip_ne hp c d hk, fun k hk => tableAt_one_bit_of_zero_poly hk,
    tableAt_one_bit_of_0x93, fun c d d' hne heq => hne ?_⟩
  rw [refStep_comm, refStep_comm _ c d'] at heq
  exact refStep_injective_of_odd (by decide) c heq

/-- Settles O13, by induction on the number of leading zero bytes. -/
theorem zeroResponse : Obligations.ZeroResponse := by
  refine ⟨fun p => refStep_self p 0, fold_leading_zeros, fun p n => ?_, fun p => refStep_self p 0xFF,
    by decide, by decide⟩
  simpa using fold_leading_zeros p n []

/-- Settles O14: the general network, and its eight outputs at 0x93, up to the order of the XORs. -/
theorem unrolledNetwork : Obligations.UnrolledNetwork := by
  refine ⟨fun p c d j _ => getLsbD_fastStep p c d j, ?_⟩
  rintro c d x y hx rfl
  simp only [getLsbD_fastStep_of_0x93, ← hx]
  refine ⟨?_, ?_, ?_, ?_, ?_, ?_, ?_, ?_⟩ <;>
    simp [List.range_succ, Bool.xor_comm, -BitVec.getLsbD_eq_getElem]

/-- Settles O15: the state after is written by definition, with no look at R before. -/
theorem referenceStepCommand : Obligations.ReferenceStepCommand :=
  ⟨fun _ => decode_of_lowByte_zero, fun _ _ _ => ⟨_, rfl⟩, fun _ _ _ _ => rfl, refStep_self,
    by decide, by decide, by decide, by decide, by decide⟩

/-- Settles O16: the state after is written by definition, with no look at R before; the value is the reference step's. -/
theorem fastStepCommand : Obligations.FastStepCommand :=
  ⟨fun _ => decode_of_lowByte_one, fun _ _ _ => ⟨_, rfl⟩, fun _ _ _ _ => rfl, fastStep_eq_refStep poly,
    fastStep_self, by decide, by decide, by rw [fastStep_eq_refStep]; decide⟩

end Sys2Proof.Machine
end

section
/-! PROOFS. The buffer fold (41_fold.md): the fold function one byte more and over two messages; the engine's states along
the reads of a fold; the fold command where its bytes are served and where it has none; then the obligations. -/

namespace Sys2Proof.Machine

/-! ## The fold function (R72, R76) -/

section
variable (p c : Byte)

/-- R72: one byte more is one fast step more. -/
theorem fold_succ {buf : List Byte} {n : Nat} (h : n < buf.length) :
    fold p c buf (n + 1) = fastStep p (fold p c buf n) buf[n] := by
  rw [fold, List.take_succ_eq_append_getElem h, List.foldl_concat, fold]

/-- R72: bytes at the count and above do not matter. -/
theorem fold_congr {buf buf' : List Byte} {n : Nat} (h : buf.take n = buf'.take n) :
    fold p c buf n = fold p c buf' n := by
  rw [fold, h, fold]

theorem fold_append (u v : List Byte) :
    fold p c (u ++ v) (u.length + v.length) = fold p (fold p c u u.length) v v.length := by
  rw [← List.length_append, fold_length, List.foldl_append, ← fold_length, ← fold_length]

/-- R76: every fast step of a fold may be a reference step. -/
theorem fold_length_refStep (vs : List Byte) : fold p c vs vs.length = vs.foldl (refStep p) c := by
  have hstep : fastStep p = refStep p := funext₂ (fastStep_eq_refStep p)
  rw [fold_length, hstep]

theorem fold_cons_one (v : Byte) (vs : List Byte) : fold p c (v :: vs) 1 = fastStep p c v := by
  rw [fold_cons, fold_zero]

end

/-! ## The reads of a fold, one at a time (R73) -/

/-- R73: the engine after `k` bytes of a fold: I = k, the bytes up to there folded into R, the next index requested unless
`k` is the count. -/
def foldAfter (crc n : Byte) (s : State) (k : Nat) : State :=
  setIndex (BitVec.ofNat 8 k) (decide (BitVec.ofNat 8 k ≠ n))
    (writeR (fold poly crc (Memory.bytes s.buf) k) (accept 2 crc n (unusedC s) s))

section
variable {crc n : Byte} {s : State} {k : Nat}

/-- R73: a fold starts with no byte read. -/
theorem begin_foldN : begin (.foldN crc n) s = foldAfter crc n s 0 := by
  simp only [begin, foldAfter, fold_zero, ne_comm (a := n), BitVec.ofNat_eq_ofNat]

theorem foldAfter_i_toNat (hk : k ≤ n.toNat) : (foldAfter crc n s k).i.toNat = k :=
  Nat.mod_eq_of_lt (hk.trans_lt n.isLt)

/-- R21, R73: the index is not the count before all bytes are read. -/
theorem foldAfter_i_ne_count (hk : k < n.toNat) : (foldAfter crc n s k).i ≠ n := fun h =>
  hk.ne ((foldAfter_i_toNat hk.le).symm.trans (congrArg BitVec.toNat h))

theorem foldAfter_bufReq (hk : k < n.toNat) : (foldAfter crc n s k).bufReq = true :=
  decide_eq_true (foldAfter_i_ne_count (crc := crc) (s := s) hk)

/-- R73: one byte more. -/
theorem foldOnce_foldAfter (hlen : k < (Memory.bytes s.buf).length) :
    foldOnce (Memory.bytes s.buf)[k] (foldAfter crc n s k) = foldAfter crc n s (k + 1) := by
  rw [foldAfter, foldAfter, BitVec.ofNat_add, fold_succ poly crc hlen]
  rfl

/-- R29, R73: below the count and below `len` the engine reads byte `k`, and no other, and folds it. -/
theorem step_foldAfter (hr : s.rst = false) (hwf : Memory.wf s.buf) (hk : k < n.toNat) (hlen : k < Memory.len s.buf) :
    step (foldAfter crc n s k) = .next (foldAfter crc n s (k + 1)) := by
  have hbytes : k < (Memory.bytes s.buf).length := by rwa [Memory.length_bytes]
  have hread : memRead (foldAfter crc n s k) (foldAfter crc n s k).i = some (Memory.bytes s.buf)[k] := by
    rw [memRead_of_wf (foldAfter crc n s k) hwf, foldAfter_i_toNat hk.le]
    exact List.getElem?_eq_getElem hbytes
  refine step_of_tick hr rfl ?_
  rw [tick_fold_of_ne_count rfl (foldAfter_i_ne_count hk), hread, Option.map_some, foldOnce_foldAfter]

theorem run_foldAfter (hr : s.rst = false) (hwf : Memory.wf s.buf) (j : Nat) (hk : k + j ≤ n.toNat)
    (hlen : k + j ≤ Memory.len s.buf) :
    Host.Core.run Sys2Proof.core j (foldAfter crc n s k) = .next (foldAfter crc n s (k + j)) := by
  induction j generalizing k with
  | zero => exact run_zero _
  | succ j ih =>
    rw [run_succ_of_next j (step_foldAfter hr hwf (by omega) (by omega)), ih (by omega) (by omega), Nat.add_assoc,
      Nat.add_comm 1 j]

/-- R73: the reads of a fold from its acceptance, in the order of their indices. -/
theorem run_begin_foldN (hr : s.rst = false) (hwf : Memory.wf s.buf) (hk : k ≤ n.toNat) (hlen : k ≤ Memory.len s.buf) :
    Host.Core.run Sys2Proof.core k (begin (.foldN crc n) s) = .next (foldAfter crc n s k) := by
  have hrun := run_foldAfter (crc := crc) (n := n) (k := 0) hr hwf k (by omega) (by omega)
  rwa [Nat.zero_add, ← begin_foldN] at hrun

/-- R21: each of them is of a byte the host holds. -/
theorem bufAck_foldAfter (hwf : Memory.wf s.buf) (hk : k < n.toNat) (hlen : k < Memory.len s.buf) :
    bufAck (foldAfter crc n s k) = true :=
  (bufAck_iff_lt_len (s := foldAfter crc n s k) hwf (foldAfter_bufReq hk)).mpr
    ((foldAfter_i_toNat hk.le).trans_lt hlen)

end

/-! ## The fold command (R74, R75) -/

theorem decode_of_lowByte_two {w : Word} (h : lowByte w = 2) :
    decode w = .command (.foldN (fieldA w) (fieldB w)) := by
  obtain ⟨hz, hop⟩ := fields_of_lowByte (h.trans_le (by decide))
  simp [decode, hz, hop, h]

/-- R74: whether its bytes are served or not, a fold overwrites R without a look at it. -/
theorem exec_foldN_of_r (crc n v : Byte) (s : State) : exec (.foldN crc n) { s with r := v } = exec (.foldN crc n) s := by
  have hreads : foldReads { s with r := v } n.toNat 0 crc = foldReads s n.toNat 0 crc :=
    foldReads_congr_from_zero n crc fun _ _ => rfl
  simp only [exec, execFoldN, hreads]
  rfl

/-- R75: the empty fold responds with its operand, with no look at the buffer. -/
theorem exec_foldN_zero (crc : Byte) (s : State) :
    exec (.foldN crc 0) s = .next (respond crc (setIndex 0 false (accept 2 crc 0 (unusedC s) s))) := rfl

/-! ## The obligations -/

/-- Settles O22: the fold of `n` bytes is a left fold over the list of the first `n`. -/
theorem foldFunction : Obligations.FoldFunction := fun p c buf =>
  ⟨fold_zero p c buf, fun _ h => fold_succ p c h, fun _ _ h => fold_congr p c h⟩

/-- Settles O24: the state after is the one of `exec_foldN_of_serves`, and the reads are those of the engine's states along
the fold. -/
theorem foldCommand : Obligations.FoldCommand := by
  refine ⟨fun _ => decode_of_lowByte_two, fun crc n s hwf hn => ⟨_, exec_foldN_of_serves crc n hwf hn⟩,
    fun crc n s hr hwf hn k hk => ?_, exec_foldN_of_r, fun crc n s vs vs' hn hn' htake => ?_, fold_cons_one,
    by decide, by decide +kernel⟩
  · have hlen : k < Memory.len s.buf := hk.trans_le hn
    exact ⟨_, run_begin_foldN hr hwf hk.le hlen.le, foldAfter_bufReq hk, foldAfter_i_toNat hk.le,
      bufAck_foldAfter hwf hk hlen⟩
  · have hexec := exec_foldN_of_serves crc n (serve_wf vs s) (by simpa using hn)
    have hexec' := exec_foldN_of_serves crc n (serve_wf vs' s) (by simpa using hn')
    rw [serve_buf, Memory.bytes_ofBytes] at hexec hexec'
    rw [← fold_congr poly crc htake] at hexec'
    exact ⟨_, hexec, hexec'⟩

/-- Settles O25: with no byte to read the fold is its operand, whatever the buffer. -/
theorem emptyFold : Obligations.EmptyFold :=
  ⟨fun crc s => ⟨_, exec_foldN_zero crc s, rfl, rfl, rfl, rfl, rfl, rfl, rfl⟩, fold_zero, by decide,
    fun s => ⟨_, exec_foldN_zero 0xC7 (serve [] s), rfl⟩⟩

/-- Settles O26: a left fold over an appended list is two, one from the other's end; so too for the commands, whose counts
add up without a wrap. -/
theorem foldComposition : Obligations.FoldComposition := by
  refine ⟨fun p c u v _ => fold_append p c u v, fun crc m k u v s hu hv hmk => ?_, fun crc b0 b1 s => ?_,
    fold_length_refStep, by decide +kernel, by decide +kernel, by decide +kernel⟩
  · have hcount : (m + k).toNat = (u ++ v).length := by
      rw [BitVec.toNat_add, Nat.mod_eq_of_lt (by omega), List.length_append, hu, hv]
    obtain ⟨x, hx⟩ := exec_foldN_serve hu.symm crc s
    obtain ⟨y, hy⟩ := exec_foldN_serve hv.symm (u.foldl (fastStep poly) crc)
      (respond (u.foldl (fastStep poly) crc) x)
    obtain ⟨z, hz⟩ := exec_foldN_serve hcount crc s
    rw [List.foldl_append] at hz
    exact ⟨_, _, _, hx, hy, hz, rfl⟩
  · obtain ⟨u, hu⟩ := exec_foldN_serve (vs := [b0, b1]) (n := 2) rfl crc s
    exact ⟨_, _, _, exec_fastStep .., exec_fastStep .., hu, rfl⟩

end Sys2Proof.Machine
end

section
/-! PROOFS. The wrappers (42_combine.md): the words that decode to them, the state each of them answers, and the value the
host reads there; then the obligations. -/

namespace Sys2Proof.Machine

/-! ## The two commands (R78, R79) -/

section
variable {w : Word}

theorem decode_of_lowByte_three (h : lowByte w = 3) :
    decode w = .command (.combine2 (fieldA w) (fieldB w)) := by
  obtain ⟨hz, hop⟩ := fields_of_lowByte (h.trans_le (by decide))
  simp [decode, hz, hop, h]

theorem decode_of_lowByte_four (h : lowByte w = 4) :
    decode w = .command (.combine3 (fieldA w) (fieldB w) (fieldC w)) := by
  obtain ⟨hz, hop⟩ := fields_of_lowByte h.le
  simp [decode, hz, hop, h]

end

section
variable (x y z : Byte) (s : State)

theorem exec_combine2 :
    exec (.combine2 x y) s =
      .next (respond (fastStep poly (fastStep poly seed x) y) (accept 3 x y (unusedC s) s)) := rfl

theorem exec_combine3 :
    exec (.combine3 x y z) s =
      .next (respond (fastStep poly (fastStep poly (fastStep poly seed x) y) z) (accept 4 x y z s)) := rfl

end

/-- R22: the value a command responds with is the one the host reads. -/
theorem readCrc_respond (v : Byte) (s : State) : readCrc (respond v s) = .ok v := readCrc_of_response rfl rfl

/-! ## The obligations -/

/-- Settles O17: the state after is written by definition, with no look at R before; a zero byte keeps 0x00. -/
theorem combine2Command : Obligations.Combine2Command := by
  refine ⟨fun _ => decode_of_lowByte_three, fun x y s => ⟨_, exec_combine2 x y s⟩, fun _ _ _ _ => rfl, fun p => ?_,
    by decide +kernel, by decide +kernel, by decide, by decide +kernel, by decide +kernel, by decide +kernel⟩
  rw [fastStep_self, fastStep_self]

/-- Settles O18: the state after is written by definition, with no look at R before; a zero byte keeps 0x00. -/
theorem combine3Command : Obligations.Combine3Command := by
  refine ⟨fun _ => decode_of_lowByte_four, fun x y z s => ⟨_, exec_combine3 x y z s⟩, fun _ _ _ _ _ => rfl,
    fun p => ?_, by decide +kernel, by decide, by decide +kernel, by decide +kernel, by decide +kernel⟩
  rw [fastStep_self, fastStep_self, fastStep_self]

/-- Settles O19: a served fold responds with the left fold of its bytes, which over two or three bytes from SEED is the
chain of fast steps that the wrappers respond with. -/
theorem wrapperConsistency : Obligations.WrapperConsistency := by
  refine ⟨fun x y s => ?_, fun x y z s => ?_⟩
  · obtain ⟨u, hfold⟩ := exec_foldN_serve (vs := [x, y]) (n := 2) rfl seed s
    exact ⟨_, _, exec_combine2 x y s, hfold, by simp only [readCrc_respond, List.foldl], readCrc_respond ..⟩
  · obtain ⟨u, hfold⟩ := exec_foldN_serve (vs := [x, y, z]) (n := 3) rfl seed s
    refine ⟨_, _, _, _, exec_combine3 x y z s, hfold, exec_combine2 x y s, exec_fastStep .., ?_, ?_⟩
    · simp only [readCrc_respond, List.foldl]
    · simp only [readCrc_respond, respond_r]

end Sys2Proof.Machine
end

section
/-! PROOFS. Faults (60_exceptions.md): what an illegal word does and that the engine is ready after it; that a command takes
no fault; where a fold of more bytes than the buffer holds stops; then the obligations. -/

namespace Sys2Proof.Machine

/-! ## An illegal word (R84, R90, R91) -/

section
variable {s : State} {w : Word}

/-- R84: the low byte alone makes a word's step the fault entry. -/
theorem step_of_offers_lowByte (hoff : s.offers w) (hlow : 4 < lowByte w) : step s = .next (endIllegal w s) := by
  obtain ⟨why, hd⟩ := decode_illegal_of_lowByte hlow
  exact step_of_offers_illegal hoff hd

/-- R91: after the fault the engine is as ready for an offer as before. -/
theorem offer_endIllegal_offers (hoff : s.offers w) (w' : Word) : (offer w' (endIllegal w s)).offers w' := by
  obtain ⟨-, hrst, -, -⟩ := hoff
  exact ⟨rfl, hrst, rfl, rfl⟩

end

/-! ## A command (R83, R98) -/

section
variable {s s' t : State} {i : Instr}

theorem exec_answers_next (i : Instr) (s : State) : ∃ t, exec i s = .next t := by
  cases i with
  | foldN crc n =>
    rw [exec, execFoldN]
    split
    · exact ⟨_, rfl⟩
    · exact ⟨_, rfl⟩
  | referenceStep crc data => exact ⟨_, rfl⟩
  | fastStep crc data => exact ⟨_, rfl⟩
  | combine2 x y => exact ⟨_, rfl⟩
  | combine3 x y z => exact ⟨_, rfl⟩

/-- R83: a command responds without a fault, or waits with no response. -/
theorem exec_no_fault_response (h : exec i s = .next t) : ¬(t.rspValid = true ∧ t.rspFault = true) := by
  rintro ⟨hvalid, hfault⟩
  rcases exec_cases h with ⟨-, -, hok⟩ | ⟨crc, n, -, -, rfl⟩
  · exact absurd (hok.symm.trans hfault) Bool.false_ne_true
  · exact absurd hvalid Bool.false_ne_true

/-- R108: whether the buffer serves a command depends on nothing else. -/
theorem State.serves_congr (h : s'.buf = s.buf) : s'.serves i ↔ s.serves i := by
  cases i with
  | foldN crc n => rw [State.serves, State.serves, h]
  | referenceStep crc data => exact Iff.rfl
  | fastStep crc data => exact Iff.rfl
  | combine2 x y => exact Iff.rfl
  | combine3 x y z => exact Iff.rfl

/-- R98: the one command that a buffer can fail to serve is a fold of more bytes than it holds. -/
theorem foldN_of_not_serves (h : ¬s.serves i) : ∃ crc n, i = .foldN crc n ∧ Memory.len s.buf < n.toNat := by
  cases i with
  | foldN crc n => exact ⟨crc, n, rfl, Nat.lt_of_not_le h⟩
  | referenceStep crc data => exact absurd trivial h
  | fastStep crc data => exact absurd trivial h
  | combine2 x y => exact absurd trivial h
  | combine3 x y z => exact absurd trivial h

end

/-! ## A fold that the buffer does not serve (R77, R87) -/

section
variable {s : State} {n : Byte}

/-- R77: such a fold stops after the last byte there is, as the sequencing does. -/
theorem exec_foldN_of_short (crc : Byte) (hwf : Memory.wf s.buf) (hlen : Memory.len s.buf < n.toNat) :
    exec (.foldN crc n) s = .next (foldAfter crc n s (Memory.len s.buf)) := by
  have hbyte := n.isLt
  have hreads : foldReads s n.toNat 0 crc =
      (BitVec.ofNat 8 (Memory.len s.buf), fold poly crc (Memory.bytes s.buf) (Memory.len s.buf)) := by
    simpa using foldReads_short s hwf n.toNat 0 crc (by simp) (by simpa using hlen) (by simpa using hbyte)
  have hne : BitVec.ofNat 8 (Memory.len s.buf) ≠ n := foldAfter_i_ne_count (crc := crc) (s := s) hlen
  rw [exec, execFoldN, hreads, if_neg hne, foldAfter, decide_eq_true hne]
  rfl

/-- R87: there no transition is enabled: the next index is not the count, and the buffer holds no byte at it. -/
theorem step_foldAfter_of_short (crc : Byte) (hr : s.rst = false) (hwf : Memory.wf s.buf)
    (hlen : Memory.len s.buf < n.toNat) : step (foldAfter crc n s (Memory.len s.buf)) = .fault .stuck := by
  have hread : memRead (foldAfter crc n s (Memory.len s.buf)) (foldAfter crc n s (Memory.len s.buf)).i = none :=
    (memRead_eq_none_iff (s := foldAfter crc n s (Memory.len s.buf)) hwf).mpr (foldAfter_i_toNat hlen.le).ge
  refine step_of_tick_none hr rfl ?_
  rw [tick_fold_of_ne_count rfl (foldAfter_i_ne_count hlen), hread, Option.map_none]

end

/-! ## The obligations -/

/-- Settles O33: the step is a command's, which holds no fault response, or the fault entry, which does not look at the
buffer. -/
theorem faultExactlyOnIllegalWords : Obligations.FaultExactlyOnIllegalWords := by
  refine ⟨fun s t w hoff hstep => ?_, fun s w m hoff hlow => ?_⟩
  · cases hd : decode w with
    | command i =>
      have hlegal : lowByte w ≤ 4 := decode_command_iff.mp ⟨i, hd⟩
      have hok := exec_no_fault_response ((step_of_offers_command hoff hd).symm.trans hstep)
      exact iff_of_false hok (not_lt.mpr hlegal)
    | illegal why =>
      obtain rfl := Host.Outcome.next.inj ((step_of_offers_illegal hoff hd).symm.trans hstep)
      exact iff_of_true ⟨rfl, rfl⟩ (decode_illegal_iff.mp ⟨why, hd⟩)
  · have hoff' : State.offers { s with buf := m } w := hoff
    exact ⟨_, step_of_offers_lowByte hoff hlow, step_of_offers_lowByte hoff' hlow⟩

/-- Settles O34: the fault entry after the acceptance writes these fields, and the reset pin is not among them. -/
theorem illegalCommandEntry : Obligations.IllegalCommandEntry := by
  intro s w hoff hlow
  have ⟨_, hrst, _, _⟩ := hoff
  exact ⟨_, _, _, step_of_offers_lowByte hoff hlow, rfl, cmdReady_iff.mpr ⟨rfl, hrst⟩, rfl,
    readCrc_refused_of_fault rfl⟩

/-- Settles O35: the fault leaves the engine idle and the buffer as it was, so the next command responds. -/
theorem faultNotSticky : Obligations.FaultNotSticky := by
  intro s t w w' i hoff hlow hstep hwf hd hs
  obtain rfl := Host.Outcome.next.inj ((step_of_offers_lowByte hoff hlow).symm.trans hstep)
  have hbuf : (offer w' (endIllegal w s)).buf = s.buf := rfl
  obtain ⟨u, hu⟩ := exec_of_serves (hbuf ▸ hwf) ((State.serves_congr hbuf).mpr hs)
  rw [hbuf] at hu
  exact ⟨_, (step_of_offers_command (offer_endIllegal_offers hoff w') hd).trans hu, rfl, readCrc_respond ..⟩

/-- Settles O36, from what a command can do and what it leaves alone. -/
theorem noExceptionFromCommands : Obligations.NoExceptionFromCommands := by
  intro i s
  obtain ⟨t, ht⟩ := exec_answers_next i s
  obtain ⟨-, -, -, -, hfaults⟩ := exec_keeps_host ht
  exact ⟨t, ht, hfaults, exec_no_fault_response ht⟩

/-- Settles O41: a word is illegal, or a command that the buffer serves, or a fold that it does not serve. -/
theorem outcomeTrichotomy : Obligations.OutcomeTrichotomy := by
  intro s w hwf hoff
  cases hd : decode w with
  | illegal why =>
    exact ⟨_, step_of_offers_illegal hoff hd, .inr (.inl ⟨⟨why, rfl⟩, rfl, rfl, rfl⟩)⟩
  | command i =>
    rw [step_of_offers_command hoff hd]
    by_cases hs : s.serves i
    · obtain ⟨u, hu⟩ := exec_of_serves hwf hs
      exact ⟨_, hu, .inl ⟨⟨i, rfl, hs, rfl⟩, rfl, rfl, rfl⟩⟩
    · obtain ⟨crc, n, rfl, hlen⟩ := foldN_of_not_serves hs
      have ⟨_, hrst, _, _⟩ := hoff
      exact ⟨_, exec_foldN_of_short crc hwf hlen,
        .inr (.inr ⟨⟨crc, n, rfl, hlen⟩, rfl, rfl, step_foldAfter_of_short crc hrst hwf hlen⟩)⟩

end Sys2Proof.Machine
end

section
/-! PROOFS. Reset (70_reset_and_hazards.md): the step of an engine in reset, and the first offer to it once released; then
the obligation. -/

namespace Sys2Proof.Machine

section
variable {s : State}

/-- R101: reset comes before everything else the engine could do. -/
theorem step_of_rst (hr : s.rst = true) : step s = .next (resetEngine s) := if_pos hr

/-- R20: any word may be offered to an idle engine out of reset. -/
theorem offer_offers_of_idle (hb : s.busy = false) (hr : s.rst = false) (w : Word) : (offer w s).offers w :=
  ⟨hb, hr, rfl, rfl⟩

/-- R102: an idle engine out of reset executes the command it is offered. -/
theorem step_offer_of_idle (hb : s.busy = false) (hr : s.rst = false) {w : Word} {i : Instr}
    (hd : decode w = .command i) : step (offer w s) = exec i (offer w s) :=
  step_of_offers_command (offer_offers_of_idle hb hr w) hd

end

/-! ## The obligation -/

/-- Settles O50: the reset edge leaves the engine idle, and `State.reset` is idle too. -/
theorem firstCommandAfterReset : Obligations.FirstCommandAfterReset := by
  refine ⟨fun s t hrst hstep => ?_, fun w i hd => step_offer_of_idle rfl rfl hd⟩
  obtain rfl := Host.Outcome.next.inj ((step_of_rst hrst).symm.trans hstep)
  have hidle : (setReset false (resetEngine s)).busy = false := resetEngine_busy s
  exact ⟨hidle, cmdReady_iff.mpr ⟨hidle, rfl⟩, fun w i hd => step_offer_of_idle hidle rfl hd⟩

end Sys2Proof.Machine
end

section
/-! PROOFS. The engine's phases (10_state.md section 9, 70_reset_and_hazards.md section 5): every step keeps the sequencing
invariant, as reset and the host's moves do; a busy engine whose reads are answered comes to its response; what a phase
keeps and how it ends. -/

namespace Sys2Proof.Machine

/-! ## The sequencing invariant -/

section
variable {s t : State}

/-- Where the engine is idle the invariant is about the buffer and the request alone. -/
theorem State.Inv.of_idle (hwf : Memory.wf s.buf) (hb : s.busy = false) (hq : s.bufReq = false) : s.Inv :=
  ⟨hwf, by simp [hb], by simp [hb], by simp [hb], by simp [hq]⟩

theorem State.Inv.wf (h : s.Inv) : Memory.wf s.buf := by
  obtain ⟨hwf, -, -, -, -⟩ := h
  exact hwf

/-- R21: in a bit-serial step no byte is requested. -/
theorem State.Inv.bufReq_of_shift (h : s.Inv) (ho : s.opr = 0) : s.bufReq = false := by
  obtain ⟨-, -, -, -, hreq⟩ := h
  refine Bool.eq_false_iff.mpr fun hq => ?_
  obtain ⟨-, ho2⟩ := hreq hq
  rw [ho] at ho2
  exact absurd ho2 (by decide)

/-- R25: an engine transition that ends the command is not one of a fold with bytes before it. -/
theorem index_eq_count_of_tick_idle (hb : s.busy = true) (h : tick s = some t) (ht : t.busy = false) (ho : s.opr = 2) :
    s.i = s.b := by
  by_contra hne
  rw [tick_fold_of_ne_count ho hne] at h
  obtain ⟨v, -, rfl⟩ := Option.map_eq_some_iff.mp h
  exact Bool.false_ne_true (ht.symm.trans hb)

/-- R21: a response finds no request outstanding. -/
theorem State.Inv.bufReq_of_tick_idle (hinv : s.Inv) (hb : s.busy = true) (h : tick s = some t) (ht : t.busy = false) :
    s.bufReq = false := by
  obtain ⟨-, -, -, hfold, hreq⟩ := hinv
  refine Bool.eq_false_iff.mpr fun hq => ?_
  obtain ⟨-, ho⟩ := hreq hq
  obtain ⟨-, hne⟩ := hfold hb ho
  exact hne.mp hq (index_eq_count_of_tick_idle hb h ht ho)

theorem shiftOnce_inv (hinv : s.Inv) (ho : s.opr = 0) (hk : s.k ≠ 0) : (shiftOnce s).Inv := by
  have hq := hinv.bufReq_of_shift ho
  have hcount := shiftOnce_k_toNat hk
  obtain ⟨hwf, hresp, hk8, -, -⟩ := hinv
  refine ⟨hwf, hresp, fun hb _ => ?_, fun _ ho2 => ?_, fun hq' => absurd (hq'.symm.trans hq) (by decide)⟩
  · have hle := hk8 hb ho
    omega
  · exact absurd (ho.symm.trans ho2) (by decide)

theorem foldOnce_inv (hinv : s.Inv) (hb : s.busy = true) (ho : s.opr = 2) (hne : s.i ≠ s.b) (v : Byte) :
    (foldOnce v s).Inv := by
  obtain ⟨hwf, hresp, -, hfold, -⟩ := hinv
  obtain ⟨hle, -⟩ := hfold hb ho
  have hlt := index_lt_count hle hne
  refine ⟨hwf, hresp, fun _ ho0 => absurd (ho.symm.trans ho0) (by decide), fun _ _ => ⟨?_, decide_eq_true_iff⟩,
    fun _ => ⟨hb, ho⟩⟩
  rw [foldOnce_i_toNat v hlt]
  exact hlt

theorem tick_keeps_inv (hinv : s.Inv) (hb : s.busy = true) (h : tick s = some t) : t.Inv := by
  rcases tick_cases h with ⟨v, rfl⟩ | ⟨ho, hk, rfl⟩ | ⟨v, ho, hne, -, rfl⟩ | ⟨-, rfl⟩
  · exact .of_idle hinv.wf rfl (hinv.bufReq_of_tick_idle hb h rfl)
  · exact shiftOnce_inv hinv ho hk
  · exact foldOnce_inv hinv hb ho hne v
  · exact .of_idle hinv.wf rfl rfl

/-- R77: the wait for a byte that is not the last meets the invariant: no read goes beyond the count. -/
theorem awaitByte_foldReads_inv {crc n : Byte} (c : Byte) (hwf : Memory.wf s.buf)
    (hne : (foldReads s n.toNat 0 crc).1 ≠ n) :
    (awaitByte (foldReads s n.toNat 0 crc).1 (foldReads s n.toNat 0 crc).2 (accept 2 crc n c s)).Inv := by
  have hbyte := n.isLt
  have hle : (foldReads s n.toNat 0 crc).1.toNat ≤ n.toNat := by
    simpa using foldReads_index_le s n.toNat 0 crc (by simpa using hbyte)
  have hop : (2 : BitVec 3) ≠ 0 := by decide
  exact ⟨hwf, fun _ => rfl, fun _ ho => absurd ho hop, fun _ _ => ⟨hle, iff_of_true rfl hne⟩, fun _ => ⟨rfl, rfl⟩⟩

theorem exec_keeps_inv {i : Instr} (hinv : s.Inv) (hb : s.busy = false) (h : exec i s = .next t) : t.Inv := by
  obtain ⟨hbuf, -⟩ := exec_keeps_host h
  rcases exec_cases h with ⟨hidle, -, -⟩ | ⟨crc, n, -, hne, rfl⟩
  · have hq : t.bufReq = false := Bool.eq_false_iff.mpr fun hq =>
      absurd ((exec_bufReq h hidle hq).symm.trans (hinv.bufReq_of_idle hb)) (by decide)
    exact .of_idle (hbuf ▸ hinv.wf) hidle hq
  · exact awaitByte_foldReads_inv _ hinv.wf hne

theorem step_keeps_inv (hinv : s.Inv) (h : step s = .next t) : t.Inv := by
  rcases step_cases h with
    ⟨-, rfl⟩ | ⟨-, hb, htick⟩ | ⟨-, -, -, rfl⟩ | ⟨w, i, ⟨hb, -⟩, -, hexec⟩ | ⟨w, why, -, -, rfl⟩
  · exact .of_idle hinv.wf rfl rfl
  · exact tick_keeps_inv hinv hb htick
  · exact hinv
  · exact exec_keeps_inv hinv hb hexec
  · exact .of_idle hinv.wf rfl rfl

end

/-- Settles O46: a step resets, holds the state, takes an illegal word, executes a command or makes one engine transition,
and each of these keeps the invariant. -/
theorem stepKeepsInvariant : Obligations.StepKeepsInvariant := fun _ _ => step_keeps_inv

/-- Settles O47: the host's moves write no register the invariant speaks of, and `serve` makes a canonical buffer. -/
theorem resetMeetsInvariant : Obligations.ResetMeetsInvariant :=
  ⟨.of_idle reset_wf rfl rfl, fun _ _ _ hinv => ⟨hinv, hinv, hinv⟩, fun s vs ⟨_, hengine⟩ => ⟨serve_wf vs s, hengine⟩⟩

/-! ## A busy engine comes to its response (R112) -/

section
variable {s t : State}

/-- R87: no transition is enabled exactly where a fold's read is not answered. -/
theorem tick_eq_none_iff : tick s = none ↔ s.opr = 2 ∧ s.i ≠ s.b ∧ memRead s s.i = none := by
  constructor
  · intro h
    unfold tick at h
    split at h
    case h_3 ho =>
      split at h
      · cases h
      · next hne => exact ⟨BitVec.eq_of_toNat_eq ho, hne, Option.map_eq_none_iff.mp h⟩
    case h_1 => split at h <;> cases h
    all_goals cases h
  · rintro ⟨ho, hne, hread⟩
    rw [tick_fold_of_ne_count ho hne, hread, Option.map_none]

/-- R87: a stuck engine has no step out of reset. -/
theorem step_of_stuck (h : s.stuck) (hr : s.rst = false) : step s = .fault .stuck := by
  obtain ⟨hb, hwait⟩ := h
  exact step_of_tick_none hr hb (tick_eq_none_iff.mpr hwait)

/-- R29, R87: a fold whose count is within the buffer is not stuck. -/
theorem tick_ne_none_of_inv (hinv : s.Inv) (hb : s.busy = true) (hlen : s.opr = 2 → s.b.toNat ≤ Memory.len s.buf) :
    tick s ≠ none := by
  intro h
  obtain ⟨ho, hne, hread⟩ := tick_eq_none_iff.mp h
  have hend := (memRead_eq_none_iff hinv.wf).mp hread
  obtain ⟨-, -, -, hfold, -⟩ := hinv
  obtain ⟨hle, -⟩ := hfold hb ho
  have hlt := index_lt_count hle hne
  have hserved := hlen ho
  omega

/-- R25: while the command goes on its opcode, its operands and the response bit stay. -/
theorem step_busy_keeps (hb : s.busy = true) (hr : s.rst = false) (h : step s = .next t) (ht : t.busy = true) :
    t.opr = s.opr ∧ t.a = s.a ∧ t.b = s.b ∧ t.c = s.c ∧ t.rspValid = s.rspValid := by
  rcases step_busy_progress hb hr h ht with ⟨-, -, rfl⟩ | ⟨v, -, -, -, rfl⟩ <;> exact ⟨rfl, rfl, rfl, rfl, rfl⟩

/-- R112: by induction on the bound of Laws/Program.lean, which every transition lowers. -/
theorem run_to_response (m : Nat) (hm : transitionsLeft s ≤ m) (hinv : s.Inv) (hb : s.busy = true) (hr : s.rst = false)
    (hlen : s.opr = 2 → s.b.toNat ≤ Memory.len s.buf) :
    ∃ k t, k ≤ m ∧ Host.Core.run Sys2Proof.core k s = .next t ∧ t.busy = false ∧ t.rspValid = true := by
  induction m generalizing s with
  | zero => exact absurd (transitionsLeft_pos hb) (by omega)
  | succ m ih =>
    obtain ⟨u, hu⟩ := Option.ne_none_iff_exists'.mp (tick_ne_none_of_inv hinv hb hlen)
    have hstep := step_of_tick hr hb hu
    obtain ⟨hru, -, hless, hresp⟩ := step_busy hr hb hstep
    cases hbu : u.busy with
    | false => exact ⟨1, u, by omega, run_succ_of_next 0 hstep, hbu, hresp hbu⟩
    | true =>
      obtain ⟨hopr, -, hcount, -, -⟩ := step_busy_keeps hb hr hstep hbu
      obtain ⟨hbuf, -⟩ := tick_keeps_host hu
      obtain ⟨k, t, hk, hrun, hend⟩ := ih (by omega) (step_keeps_inv hinv hstep) hbu hru (by rwa [hopr, hcount, hbuf])
      exact ⟨k + 1, t, by omega, (run_succ_of_next k hstep).trans hrun, hend⟩

end

/-- Settles O44: no state has more than 256 transitions before it. -/
theorem busyEngineResponds : Obligations.BusyEngineResponds := fun s hinv hb hr hlen =>
  run_to_response 256 (transitionsLeft_le s) hinv hb hr hlen

/-! ## The phases of the engine (10_state.md section 9) -/

section
variable {s t : State}

/-- R18, R20: executed whole, a command leaves in the latches what its acceptance put there. -/
theorem exec_latches {i : Instr} (h : exec i s = .next t) :
    t.opr = (begin i s).opr ∧ t.a = (begin i s).a ∧ t.b = (begin i s).b ∧ t.c = (begin i s).c := by
  cases i with
  | foldN crc n =>
    simp only [exec, execFoldN] at h
    split at h <;> obtain rfl := Host.Outcome.next.inj h <;> exact ⟨rfl, rfl, rfl, rfl⟩
  | referenceStep crc data => obtain rfl := Host.Outcome.next.inj h; exact ⟨rfl, rfl, rfl, rfl⟩
  | fastStep crc data => obtain rfl := Host.Outcome.next.inj h; exact ⟨rfl, rfl, rfl, rfl⟩
  | combine2 x y => obtain rfl := Host.Outcome.next.inj h; exact ⟨rfl, rfl, rfl, rfl⟩
  | combine3 x y z => obtain rfl := Host.Outcome.next.inj h; exact ⟨rfl, rfl, rfl, rfl⟩

/-- R20, R50: the step that accepts a word, legal or not, latches its fields. -/
theorem step_latches {w : Word} (hoff : s.offers w) (h : step s = .next t) :
    t.opr = fieldOP w ∧ t.a = fieldA w ∧ t.b = fieldB w ∧ t.c = fieldC w := by
  have ⟨_, _, _, hcmd⟩ := hoff
  cases hd : decode w with
  | command i =>
    obtain ⟨hopr, ha, hb, hc⟩ := exec_latches ((step_of_offers_command hoff hd).symm.trans h)
    rw [hopr, ha, hb, hc]
    exact begin_latches hcmd hd
  | illegal why =>
    obtain rfl := Host.Outcome.next.inj ((step_of_offers_illegal hoff hd).symm.trans h)
    exact ⟨rfl, rfl, rfl, rfl⟩

end

/-- Settles O39: an idle engine is offered a word or not; a busy one makes an engine transition. -/
theorem phaseTransitions : Obligations.PhaseTransitions := by
  refine ⟨fun s t hr hb h => ?_, fun s t hr hb h ht => step_busy_keeps hb hr h ht, fun s t hb h ht => ?_⟩
  · cases hv : s.cmdValid with
    | false => exact .inl ⟨rfl, (Host.Outcome.next.inj ((step_of_idle hb hr hv).symm.trans h)).symm⟩
    | true => exact .inr ⟨rfl, step_latches ⟨hb, hr, hv, rfl⟩ h⟩
  · cases hr : s.rst with
    | true =>
      obtain rfl := Host.Outcome.next.inj ((step_of_rst hr).symm.trans h)
      exact .inl ⟨rfl, rfl⟩
    | false =>
      obtain ⟨-, -, -, hresp⟩ := step_busy hr hb h
      exact .inr ⟨rfl, hresp ht⟩

end Sys2Proof.Machine
end

section
/-! PROOFS. The sequencing of a command (10_state.md, 40_step.md, 41_fold.md): its transitions reach the state of its atomic
meaning; the states along a fold in numbers, to the response or to the wait for a byte beyond the buffer. -/

namespace Sys2Proof.Machine

/-! ## The transitions of each command reach its atomic result (R10, R25) -/

/-- `k` steps lead from `s` to `t`, and before each of them the engine is busy with no response held. -/
def BusyRun (k : Nat) (s t : State) : Prop :=
  Host.Core.run Sys2Proof.core k s = .next t ∧
  ∀ j < k, ∃ u, Host.Core.run Sys2Proof.core j s = .next u ∧ u.busy = true ∧ u.rspValid = false

section
variable {s u t : State} {k : Nat}

theorem BusyRun.refl (s : State) : BusyRun 0 s s := ⟨run_zero s, fun _ hj => absurd hj (Nat.not_lt_zero _)⟩

theorem BusyRun.cons (hb : s.busy = true) (hv : s.rspValid = false) (hstep : step s = .next u) (h : BusyRun k u t) :
    BusyRun (k + 1) s t := by
  obtain ⟨hrun, hbefore⟩ := h
  refine ⟨(run_succ_of_next k hstep).trans hrun, fun j hj => ?_⟩
  cases j with
  | zero => exact ⟨s, run_zero s, hb, hv⟩
  | succ j =>
    obtain ⟨x, hx, hbusy⟩ := hbefore j (by omega)
    exact ⟨x, (run_succ_of_next j hstep).trans hx, hbusy⟩

theorem BusyRun.single (hb : s.busy = true) (hv : s.rspValid = false) (hstep : step s = .next t) : BusyRun 1 s t :=
  .cons hb hv hstep (.refl t)

theorem tick_of_shifted_out (ho : s.opr = 0) (hk : s.k = 0) : tick s = some (respond s.r s) := by
  simp [tick, ho, hk]

/-- R59: the shifts that remain, and the response. -/
theorem busyRun_shifts (hr : s.rst = false) (hb : s.busy = true) (hv : s.rspValid = false) (ho : s.opr = 0)
    (hk : s.k.toNat = k) : BusyRun (k + 1) s (respond (shiftOnce^[k] s).r (shiftOnce^[k] s)) := by
  induction k generalizing s with
  | zero => exact .single hb hv (step_of_tick hr hb (tick_of_shifted_out ho (BitVec.eq_of_toNat_eq hk)))
  | succ k ih =>
    have hk0 : s.k ≠ 0 := by
      intro h
      simp [h] at hk
    have hcount := shiftOnce_k_toNat hk0
    exact .cons hb hv (step_of_tick hr hb (tick_of_shift ho hk0)) (ih hr hb hv ho (by omega))

end

/-- R73: the engine in a fold at index `i` with `r` in the register. -/
def foldAt (crc n : Byte) (s : State) (i r : Byte) : State :=
  setIndex i (decide (i ≠ n)) (writeR r (accept 2 crc n (unusedC s) s))

/-- R73, R77: what a fold comes to whose reads end at an index with a register: the response at the count, else the wait. -/
def foldEnd (crc n : Byte) (s : State) (reads : Byte × Byte) : State :=
  if reads.1 = n then respond reads.2 (foldAt crc n s n reads.2) else foldAt crc n s reads.1 reads.2

section
variable {crc n i r v : Byte} {s : State}

theorem begin_foldN_eq_foldAt : begin (.foldN crc n) s = foldAt crc n s 0 crc := by
  rw [begin, foldAt]
  simp only [ne_comm (a := n)]

/-- R74, R77: the atomic meaning of a fold in the terms of its sequencing. -/
theorem exec_foldN_eq_foldEnd : exec (.foldN crc n) s = .next (foldEnd crc n s (foldReads s n.toNat 0 crc)) := by
  rw [exec, execFoldN, foldEnd]
  split
  · rw [foldAt, decide_eq_false (not_not.mpr rfl)]
    rfl
  · next hne =>
    rw [foldAt, decide_eq_true hne]
    rfl

theorem tick_fold_of_count (ho : s.opr = 2) (hi : s.i = s.b) : tick s = some (respond s.r s) := by
  simp [tick, ho, hi]

theorem step_foldAt_count (hr : s.rst = false) :
    step (foldAt crc n s n r) = .next (respond r (foldAt crc n s n r)) :=
  step_of_tick hr rfl (tick_fold_of_count (s := foldAt crc n s n r) rfl rfl)

theorem step_foldAt_read (hr : s.rst = false) (hne : i ≠ n) (hread : memRead s i = some v) :
    step (foldAt crc n s i r) = .next (foldAt crc n s (i + 1) (fastStep poly r v)) := by
  have hread' : memRead (foldAt crc n s i r) (foldAt crc n s i r).i = some v := hread
  refine step_of_tick hr rfl ?_
  rw [tick_fold_of_ne_count rfl hne, hread']
  rfl

/-- R73: the reads that remain, and then the response or the wait; whatever the buffer is. -/
theorem busyRun_foldAt (hr : s.rst = false) (m : Nat) (hm : i.toNat + m = n.toNat) :
    ∃ k, k ≤ m + 1 ∧ BusyRun k (foldAt crc n s i r) (foldEnd crc n s (foldReads s m i r)) := by
  induction m generalizing i r with
  | zero =>
    obtain rfl : i = n := BitVec.eq_of_toNat_eq hm
    rw [foldReads, foldEnd, if_pos rfl]
    exact ⟨1, le_rfl, .single rfl rfl (step_foldAt_count hr)⟩
  | succ m ih =>
    have hbyte := n.isLt
    have hne : i ≠ n := by
      rintro rfl
      omega
    have hnext := toNat_add_one i (by omega)
    rw [foldReads]
    cases hread : memRead s i with
    | none =>
      simp only [foldEnd, if_neg hne]
      exact ⟨0, by omega, .refl _⟩
    | some v =>
      obtain ⟨k, hk, hrun⟩ := ih (i := i + 1) (r := fastStep poly r v) (by omega)
      exact ⟨k + 1, by omega, .cons rfl rfl (step_foldAt_read hr hne hread) hrun⟩

end

section
variable {s : State}

/-- R59: eight shifts from the acceptance leave the reference step in R, nothing in D, and K counted down. -/
theorem busyRun_begin_referenceStep (hr : s.rst = false) (crc data : Byte) :
    BusyRun 9 (begin (.referenceStep crc data) s)
      (respond (refStep poly crc data) (setShifter 0 0 (accept 0 crc data (unusedC s) s))) := by
  have hrun := busyRun_shifts (s := begin (.referenceStep crc data) s) (k := 8) hr rfl rfl rfl rfl
  have hout : data <<< 8 = 0 := BitVec.shiftLeft_eq_zero le_rfl
  have hd : (begin (.referenceStep crc data) s).d = data := rfl
  have hk : (begin (.referenceStep crc data) s).k - BitVec.ofNat 4 8 = 0 := sub_self (8 : BitVec 4)
  rw [iterate_shiftOnce le_rfl, shifts_eight, hd, hout, hk] at hrun
  exact hrun

theorem busyRun_begin (hr : s.rst = false) (i : Instr) :
    ∃ k t, k ≤ 256 ∧ exec i s = .next t ∧ BusyRun k (begin i s) t := by
  cases i with
  | referenceStep crc data => exact ⟨9, _, by omega, rfl, busyRun_begin_referenceStep hr crc data⟩
  | foldN crc n =>
    have hbyte := n.isLt
    obtain ⟨k, hk, hrun⟩ := busyRun_foldAt (crc := crc) (n := n) (i := 0) (r := crc) hr n.toNat (by simp)
    rw [← begin_foldN_eq_foldAt] at hrun
    exact ⟨k, _, by omega, exec_foldN_eq_foldEnd, hrun⟩
  | fastStep crc data => exact ⟨1, _, by omega, rfl, .single rfl rfl (step_of_tick hr rfl rfl)⟩
  | combine2 x y => exact ⟨1, _, by omega, rfl, .single rfl rfl (step_of_tick hr rfl rfl)⟩
  | combine3 x y z => exact ⟨1, _, by omega, rfl, .single rfl rfl (step_of_tick hr rfl rfl)⟩

end

/-- Settles O43, command by command: the shifts, the reads or the one lookup transition. -/
theorem smallStepsReachAtomicResult : Obligations.SmallStepsReachAtomicResult := by
  intro i s hr
  obtain ⟨k, t, hk, hexec, hrun, hbefore⟩ := busyRun_begin hr i
  exact ⟨k, hk, hrun.trans hexec.symm, hbefore⟩

/-! ## The sequencing of a fold, in numbers (R73, R77) -/

/-- A run goes on from where its first steps lead. -/
theorem run_add {s t : State} {k : Nat} (h : Host.Core.run Sys2Proof.core k s = .next t) (m : Nat) :
    Host.Core.run Sys2Proof.core (k + m) s = Host.Core.run Sys2Proof.core m t := by
  induction k generalizing s with
  | zero =>
    obtain rfl := Host.Outcome.next.inj h
    rw [Nat.zero_add]
  | succ k ih =>
    rw [Nat.add_right_comm]
    cases hstep : step s with
    | next u =>
      rw [run_succ_of_next k hstep] at h
      rw [run_succ_of_next (k + m) hstep, ih h]
    | fault x => cases (run_succ_of_fault k x hstep).symm.trans h
    | refused x =>
      have hcore : Sys2Proof.core.step s = .refused x := hstep
      simp only [Host.Core.run, hcore] at h
      cases h

section
variable {crc n : Byte} {s : State}

theorem foldAfter_count :
    foldAfter crc n s n.toNat = foldAt crc n s n (fold poly crc (Memory.bytes s.buf) n.toNat) := by
  rw [foldAfter, BitVec.ofNat_toNat, BitVec.setWidth_eq]
  rfl

/-- R74: all bytes read, the next transition is the response. -/
theorem run_foldN_response (hr : s.rst = false) (hwf : Memory.wf s.buf) (hlen : n.toNat ≤ Memory.len s.buf) :
    Host.Core.run Sys2Proof.core (n.toNat + 1) (begin (.foldN crc n) s) =
      .next (respond (fold poly crc (Memory.bytes s.buf) n.toNat)
        (foldAt crc n s n (fold poly crc (Memory.bytes s.buf) n.toNat))) := by
  rw [run_add (run_begin_foldN hr hwf le_rfl hlen) 1, foldAfter_count,
    run_succ_of_next 0 (step_foldAt_count hr), run_zero]

/-- R77: the bytes there are read, the next transition is not enabled. -/
theorem run_foldN_stuck (hr : s.rst = false) (hwf : Memory.wf s.buf) (hlen : Memory.len s.buf < n.toNat) :
    Host.Core.run Sys2Proof.core (Memory.len s.buf + 1) (begin (.foldN crc n) s) = .fault .stuck := by
  rw [run_add (run_begin_foldN hr hwf hlen.le le_rfl) 1,
    run_succ_of_fault 0 .stuck (step_foldAfter_of_short crc hr hwf hlen)]

theorem foldAfter_bufReq_iff {k : Nat} (hk : k ≤ n.toNat) : (foldAfter crc n s k).bufReq = true ↔ k ≠ n.toNat := by
  refine ⟨?_, fun hne => foldAfter_bufReq (Nat.lt_of_le_of_ne hk hne)⟩
  rintro hq rfl
  rw [foldAfter_count, foldAt, setIndex_bufReq] at hq
  exact of_decide_eq_true hq rfl

/-- R77: the engine after the last byte of a buffer shorter than the count is stuck. -/
theorem foldAfter_stuck (hwf : Memory.wf s.buf) (hlen : Memory.len s.buf < n.toNat) :
    (foldAfter crc n s (Memory.len s.buf)).stuck :=
  ⟨rfl, rfl, foldAfter_i_ne_count hlen,
    (memRead_eq_none_iff (s := foldAfter crc n s (Memory.len s.buf)) hwf).mpr (foldAfter_i_toNat hlen.le).ge⟩

theorem stuck_not_bufAck (h : s.stuck) : bufAck s = false := by
  obtain ⟨-, -, -, hread⟩ := h
  simp [bufAck, hread]

end

/-- Settles O23: the states along the fold are those of `foldAfter`; from the last the engine responds, or has no
transition. -/
theorem foldSequencing : Obligations.FoldSequencing := by
  intro s crc n hr hwf
  refine ⟨rfl, rfl, rfl, fun k hk hlen => ?_, fun hlen => ?_, run_foldN_stuck hr hwf⟩
  · exact ⟨_, run_begin_foldN hr hwf hk hlen, foldAfter_i_toNat hk, rfl, rfl, rfl, rfl, foldAfter_bufReq_iff hk⟩
  · exact ⟨_, run_foldN_response hr hwf hlen, rfl, rfl, rfl, rfl, rfl⟩

/-- Settles O28: the command answers the last state of the sequencing, which is stuck whatever is on the pins of the next
offer. -/
theorem underrunIsStuck : Obligations.UnderrunIsStuck := by
  intro s crc n hwf hlen
  have hstuck := foldAfter_stuck (crc := crc) hwf hlen
  have hreq : decide (BitVec.ofNat 8 (Memory.len s.buf) ≠ n) = true := foldAfter_bufReq (crc := crc) (s := s) hlen
  refine ⟨_, exec_foldN_of_short crc hwf hlen, ?_, foldAfter_i_toNat hlen.le, stuck_not_bufAck hstuck, hstuck,
    fun v w => ?_, _, rfl, rfl, rfl, rfl⟩
  · rw [foldAfter, hreq]
    rfl
  · exact step_of_stuck (s := { foldAfter crc n s (Memory.len s.buf) with rst := false, cmdValid := v, cmd := w })
      hstuck rfl

end Sys2Proof.Machine
end

section
/-! PROOFS. The check byte (42_combine.md, R82), from the step's bijectivity in the register at an odd POLY. -/

namespace Sys2Proof.Machine

/-- R72: a byte appended to a message is one fast step more. -/
theorem fold_append_singleton (p c k : Byte) (m : List Byte) :
    fold p c (m ++ [k]) (m.length + 1) = fastStep p (fold p c m m.length) k :=
  (fold_append p c m [k]).trans (fold_cons_one p _ k [])

/-- R82: at an odd POLY a step leaves 0x00 only where the data byte is the register. -/
theorem fastStep_eq_zero_iff {p : Byte} (hp : p.getLsbD 0 = true) (c k : Byte) : fastStep p c k = 0 ↔ k = c := by
  constructor
  · intro h
    rw [fastStep_eq_refStep, ← refStep_self p k] at h
    exact (refStep_injective_of_odd hp k h).symm
  · rintro rfl
    exact fastStep_self p k

/-- Settles O20: a byte folded into itself leaves 0x00, and at an odd POLY no other does. -/
theorem checkByteResidue : Obligations.CheckByteResidue := by
  refine ⟨fun p c m _ => ?_, fun p c k m _ hp => ?_, fun x y s => ⟨_, _, exec_combine2 x y s, exec_combine3 .., ?_⟩,
    by decide +kernel, fastStep_self 0x93 0x43⟩
  · rw [fold_append_singleton, fastStep_self]
  · rw [fold_append_singleton]
    exact fastStep_eq_zero_iff hp _ k
  · rw [readCrc_respond, respond_r, fastStep_self]

end Sys2Proof.Machine
end

section
/-! PROOFS. Whole commands: the words that stand for them, the step that executes them, the state they end in, and that a
command in between changes no response (30_encoding.md, 10_state.md, 60_exceptions.md, 70_reset_and_hazards.md). -/

namespace Sys2Proof.Machine

/-- Settles O3: each word is made of its five fields. -/
theorem sampleWordsDecode : Obligations.SampleWordsDecode :=
  ⟨by decide, by decide, by decide, by decide, by decide, by decide, by decide⟩

theorem decode_of_decodeTableWord {nbits w : Nat} {i : Instr} (h : decodeTableWord nbits w = some i) :
    decode (tableWord nbits w) = .command i := by
  unfold decodeTableWord at h
  split at h
  · next hd => rw [hd, Option.some.inj h]
  · cases h

theorem withFetchWord_offers (s : State) (nbits w : Nat) : (s.withFetchWord nbits w).offers (tableWord nbits w) :=
  ⟨rfl, rfl, rfl, rfl⟩

/-- Settles O30: the offered word is decoded and its command executed; `withFetchWord` is such an offer. -/
theorem stepRunsDecodedCommand : Obligations.StepRunsDecodedCommand :=
  ⟨fun _ _ _ hoff hd => step_of_offers_command hoff hd,
    fun s w _ hd => step_of_offers_command (withFetchWord_offers s 32 w) (decode_of_decodeTableWord hd)⟩

/-- R19: the fault bit of a held response can be read. -/
theorem readFault_of_response {s : State} (h : s.rspValid = true) : readFault s = .ok s.rspFault := if_pos h

/-- R16: a response is not given while the command is in progress. -/
theorem not_final_of_busy {s : State} (hb : s.busy = true) : ¬s.final := fun ⟨_, hidle, _, _⟩ =>
  Bool.false_ne_true (hidle.symm.trans hb)

/-- Settles O40: an idle engine with no offer holds its state, and a served command leaves it idle with a response. -/
theorem finalStateHolds : Obligations.FinalStateHolds := by
  refine ⟨fun s ⟨hresp, hb, hv, hr⟩ => ⟨step_of_idle hb hr hv, cmdReady_iff.mpr ⟨hb, hr⟩, readFault_of_response hresp⟩,
    fun s hb => not_final_of_busy hb, fun i s hwf hs hr => ?_⟩
  obtain ⟨u, hu⟩ := exec_of_serves hwf hs
  obtain ⟨-, hrst, -⟩ := exec_keeps_host hu
  exact ⟨_, hu, rfl, rfl, rfl, hrst.trans hr⟩

/-- R22, R96: what a served command answers depends on its own buffer alone. -/
theorem exec_serve_of_serves {s : State} {vs : List Byte} {i : Instr} (h : (serve vs s).serves i) :
    ∃ u, exec i (serve vs s) = .next (respond (result vs i) u) := by
  obtain ⟨u, hu⟩ := exec_of_serves (serve_wf vs s) h
  rw [serve_buf, Memory.bytes_ofBytes] at hu
  exact ⟨u, hu⟩

/-- Settles O38: after the other command as before it the engine answers the result over the requester's own buffer. -/
theorem requesterIndependence : Obligations.RequesterIndependence := by
  intro i j s t vs ws _ _ hs
  have hs' : (serve vs t).serves i := (State.serves_congr rfl).mpr hs
  obtain ⟨u, hu⟩ := exec_serve_of_serves hs
  obtain ⟨v, hv⟩ := exec_serve_of_serves hs'
  exact ⟨_, _, hu, hv, rfl, rfl⟩

end Sys2Proof.Machine
end

section
/-! PROOFS. The reset state and the edges that enter it (R26, R99, R101). -/

namespace Sys2Proof.Machine

/-- R99, R101: any number of edges with `rst` = 1, one at least, ends in a reset of some state the host's pin is 1 in. -/
theorem run_of_rst {s : State} (hr : s.rst = true) (k : Nat) :
    ∃ u, u.rst = true ∧ Host.Core.run Sys2Proof.core (k + 1) s = .next (resetEngine u) := by
  induction k generalizing s with
  | zero => exact ⟨s, hr, run_succ_of_next 0 (step_of_rst hr)⟩
  | succ k ih =>
    obtain ⟨u, hu, hrun⟩ := ih (s := resetEngine s) hr
    exact ⟨u, hu, (run_succ_of_next (k + 1) (step_of_rst hr)).trans hrun⟩

/-- R101: in reset the engine is not ready. -/
theorem cmdReady_of_rst {s : State} (hr : s.rst = true) : cmdReady s = false := by simp [cmdReady, hr]

/-- Settles O48, reading by reading. -/
theorem resetState : Obligations.ResetState := by
  obtain ⟨hcrc, hfault⟩ := read_refused_of_no_response (s := State.reset) rfl
  exact ⟨rfl, rfl, rfl, cmdReady_iff.mpr ⟨rfl, rfl⟩, hcrc, hfault, readBufIdx_refused_of_no_request rfl⟩

/-- Settles O49: the reset edge comes before everything else a step looks at; with no reset a stuck engine has no step. -/
theorem resetEdge : Obligations.ResetEdge := by
  refine ⟨fun s hr => ⟨_, step_of_rst hr, rfl, rfl, rfl, cmdReady_of_rst hr, rfl, rfl, rfl, hr, rfl⟩,
    fun s v w hr => ⟨_, step_of_rst hr, step_of_rst (s := { s with cmdValid := v, cmd := w }) hr⟩,
    fun s k hr => ?_, fun s h hr => step_of_stuck h hr⟩
  obtain ⟨u, hu, hrun⟩ := run_of_rst hr k
  exact ⟨_, hrun, rfl, rfl, rfl, cmdReady_of_rst hu⟩

end Sys2Proof.Machine
end

section
/-! PROOFS. The host's runs of the listings (R55, R106, R111, 95_test_vectors.md P4): what the host waits for and drives at a
line, one line of a run in each of its cases, and what a run ends in; then the obligations. -/

namespace Sys2Proof.Machine

/-! ## What the host drives for a line -/

section
variable {env : Bindings} {line : Line} {s v : State}

/-- R106: before a line that is no reset the host waits for an idle engine. -/
theorem Line.await_of_ne_reset (h : line ≠ .reset) (s : State) :
    line.await s = awaitIdle 256 (setReset false (withdraw s)) := by
  cases line with
  | reset => exact absurd rfl h
  | _ => rfl

/-- R106: but for reset the host drives the line's word and buffer, where both have a value. -/
theorem Line.drive_eq_some_iff (h : line ≠ .reset) :
    line.drive env s = some v ↔
      ∃ w, line.cmdWord env = some w ∧ ∃ u, line.serving env s = some u ∧ offer w (setReset false u) = v := by
  cases line with
  | reset => exact absurd rfl h
  | _ => simp [Line.drive, Option.bind_eq_some_iff]

/-- The host's buffer is the one register of the state that a line's buffer writes. -/
theorem Line.serving_eq_some {u : State} (h : line.serving env s = some u) : u = s ∨ ∃ vs, u = serve vs s := by
  cases line with
  | foldN crc buffer n =>
    obtain ⟨vs, -, rfl⟩ := Option.map_eq_some_iff.mp h
    exact .inr ⟨vs, rfl⟩
  | _ => exact .inl (Option.some.inj h).symm

/-- Whether a line has something to drive depends on its names and not on the engine. -/
theorem Line.drive_eq_none_congr (env : Bindings) (line : Line) (s s' : State) :
    line.drive env s = none ↔ line.drive env s' = none := by
  cases line with
  | foldN crc buffer n =>
    simp only [Line.drive, Line.serving, Line.cmdWord]
    cases Arg.values env buffer <;> simp
  | reset => simp [Line.drive]
  | _ => simp [Line.drive, Line.serving]

theorem Line.cmdWord_of_command {i : Instr} (h : line.command env = some i) : line.cmdWord env = some (encode i) := by
  cases line with
  | word w => cases h
  | _ => simp only [Line.cmdWord, h, Option.map_some]

theorem Line.ne_reset_of_command {i : Instr} (h : line.command env = some i) : line ≠ .reset := by
  rintro rfl
  cases h

theorem Line.ne_reset_of_drive_none (h : line.drive env s = none) : line ≠ .reset := by
  rintro rfl
  cases h

/-- R20, R106: the host drives a line to an idle engine as the offer of its word. -/
theorem Line.drive_offers {w : Word} (hne : line ≠ .reset) (hw : line.cmdWord env = some w)
    (hdrive : line.drive env s = some v) (hb : s.busy = false) : v.offers w := by
  obtain ⟨w', hw', u, hu, rfl⟩ := (Line.drive_eq_some_iff hne).mp hdrive
  obtain rfl := Option.some.inj (hw.symm.trans hw')
  refine ⟨?_, rfl, rfl, rfl⟩
  rcases Line.serving_eq_some hu with rfl | ⟨vs, rfl⟩ <;> exact hb

/-- R55: a name in a buffer stands for its byte, each at its place. -/
theorem Arg.values_eq_some {xs : List Arg} {vs : List Byte} (h : xs.map (fun x => x.value env) = vs.map some) :
    Arg.values env xs = some vs := by
  induction xs generalizing vs with
  | nil =>
    obtain rfl := List.map_eq_nil_iff.mp h.symm
    rfl
  | cons x xs ih =>
    obtain _ | ⟨v, vs⟩ := vs
    · cases h
    · obtain ⟨hx, hxs⟩ := List.cons.inj h
      simp [Arg.values, hx, ih hxs]

end

/-! ## One line of a run -/

section
variable {env : Bindings} {line : Line} {rest : List Line} {s v t : State}

/-- A line that drives nothing binds none. -/
theorem runLines_of_drive_none (hb : s.busy = false) (h : line.drive env s = none) :
    runLines (line :: rest) env s = runLines rest (env ++ [none]) (setReset false (withdraw s)) := by
  have hawait := awaitIdle_of_idle (s := setReset false (withdraw s)) 256 hb
  simp only [runLines, Line.await_of_ne_reset (Line.ne_reset_of_drive_none h), hawait, Line.drive_pins, h]

/-- A line that an idle engine is driven with binds the response of its one step. -/
theorem runLines_of_drive_some (hne : line ≠ .reset) (hb : s.busy = false) (h : line.drive env s = some v)
    (hstep : step v = .next t) : runLines (line :: rest) env s = runLines rest (env ++ [response t]) t := by
  have hawait := awaitIdle_of_idle (s := setReset false (withdraw s)) 256 hb
  simp only [runLines, Line.await_of_ne_reset hne, hawait, Line.drive_pins, h, hstep]

/-- R101: the line that resets does not wait. -/
theorem runLines_reset :
    runLines (.reset :: rest) env s = runLines rest (env ++ [none]) (resetEngine (setReset true (withdraw s))) := by
  have hstep : step (setReset true (withdraw s)) = .next (resetEngine (setReset true (withdraw s))) := step_of_rst rfl
  simp only [runLines, Line.await, Line.drive, hstep]
  rfl

theorem response_respond (x : Byte) (s : State) : response (respond x s) = some x := rfl

/-- R87: the host's wait at a stuck engine does not end. -/
theorem awaitIdle_of_stuck (h : s.stuck) : awaitIdle 256 (setReset false (withdraw s)) = .fault .stuck := by
  have hstep : step (setReset false (withdraw s)) = .fault .stuck :=
    step_of_stuck (s := setReset false (withdraw s)) h rfl
  obtain ⟨hb, -⟩ := h
  exact awaitIdle_of_fault 255 .stuck hb hstep

/-- R22, R84, R112: out of reset a step with a word offered leaves the engine busy or with a response held. -/
theorem step_responds (hr : v.rst = false) (hv : v.cmdValid = true) (h : step v = .next t) (ht : t.busy = false) :
    t.rspValid = true := by
  cases hb : v.busy with
  | true =>
    obtain ⟨-, -, -, hresp⟩ := step_busy hr hb h
    exact hresp ht
  | false =>
    have hoff : v.offers v.cmd := ⟨hb, hr, hv, rfl⟩
    cases hd : decode v.cmd with
    | command i =>
      rcases exec_cases ((step_of_offers_command hoff hd).symm.trans h) with ⟨-, hresp, -⟩ | ⟨crc, n, -, -, rfl⟩
      · exact hresp
      · cases ht
    | illegal why =>
      obtain rfl := Host.Outcome.next.inj ((step_of_offers_illegal hoff hd).symm.trans h)
      rfl

end

/-! ## What a run ends in -/

section
variable {env env' : Bindings} {line : Line} {rest lines : List Line} {s t : State}

theorem runLines_nil_cases (h : runLines [] env s = .next (env', t)) :
    env' = env ∧ awaitIdle 256 (setReset false (withdraw s)) = .next t := by
  rw [runLines] at h
  split at h
  · next u hu =>
    obtain ⟨rfl, rfl⟩ := Prod.mk.inj (Host.Outcome.next.inj h)
    exact ⟨rfl, hu⟩
  · cases h
  · cases h

/-- Everything a line of a run that ends can do: the run goes on with one entry more, and where the line drove a word, from
an engine that is busy or holds a response. -/
theorem runLines_cons_cases (h : runLines (line :: rest) env s = .next (env', t)) :
    ∃ x u, runLines rest (env ++ [x]) u = .next (env', t) ∧
      (line ≠ .reset → line.drive env s ≠ none → u.busy = false → u.rspValid = true) := by
  rw [runLines] at h
  split at h
  · next u hawait =>
    split at h
    · next hnone => exact ⟨none, u, h, fun _ hdrive => absurd ((line.drive_eq_none_congr env u s).mp hnone) hdrive⟩
    · next v hdrive =>
      split at h
      · next u' hstep =>
        refine ⟨_, u', h, fun hne _ => ?_⟩
        obtain ⟨w, -, x, -, rfl⟩ := (Line.drive_eq_some_iff hne).mp hdrive
        exact step_responds (offer_rst ..) rfl hstep
      · cases h
      · cases h
  · cases h
  · cases h

/-- R111: the host's last wait ends at an idle engine with nothing offered. -/
theorem awaitIdle_withdraw_idle (h : awaitIdle 256 (setReset false (withdraw s)) = .next t) :
    t.busy = false ∧ t.cmdValid = false ∧ t.rst = false := by
  obtain ⟨hb, hr, hv, -⟩ := awaitIdle_idle 256 rfl (transitionsLeft_le _) h
  exact ⟨hb, hv, hr⟩

/-- R111: an engine that is busy, or holds a response, holds one after the wait. -/
theorem awaitIdle_withdraw_response (hs : s.busy = false → s.rspValid = true)
    (h : awaitIdle 256 (setReset false (withdraw s)) = .next t) : t.rspValid = true := by
  cases hb : s.busy with
  | true =>
    obtain ⟨-, -, -, hresp⟩ := awaitIdle_idle 256 rfl (transitionsLeft_le _) h
    exact hresp hb
  | false =>
    rw [awaitIdle_of_idle 256 (s := setReset false (withdraw s)) hb] at h
    obtain rfl := Host.Outcome.next.inj h
    exact hs hb

theorem runLines_ends_idle (h : runLines lines env s = .next (env', t)) :
    t.busy = false ∧ t.cmdValid = false ∧ t.rst = false ∧ env'.length = env.length + lines.length := by
  induction lines generalizing env s with
  | nil =>
    obtain ⟨rfl, hawait⟩ := runLines_nil_cases h
    obtain ⟨hb, hv, hr⟩ := awaitIdle_withdraw_idle hawait
    exact ⟨hb, hv, hr, rfl⟩
  | cons line rest ih =>
    obtain ⟨x, u, hrest, -⟩ := runLines_cons_cases h
    obtain ⟨hb, hv, hr, hlen⟩ := ih hrest
    refine ⟨hb, hv, hr, ?_⟩
    simp only [hlen, List.length_append, List.length_cons, List.length_nil]
    omega

/-- R111: what a last line that drove a word is answered with is held when the run ends. -/
theorem runLines_ends_with_response (h : runLines lines env s = .next (env', t)) (hlast : lines.getLast? = some line)
    (hne : line ≠ .reset) (hdrive : line.drive env'.dropLast s ≠ none) : t.rspValid = true := by
  induction lines generalizing env s with
  | nil => cases hlast
  | cons first rest ih =>
    obtain ⟨x, u, hrest, hresp⟩ := runLines_cons_cases h
    cases rest with
    | nil =>
      obtain rfl : first = line := Option.some.inj hlast
      obtain ⟨rfl, hawait⟩ := runLines_nil_cases hrest
      rw [List.dropLast_concat] at hdrive
      exact awaitIdle_withdraw_response (hresp hne hdrive) hawait
    | cons second rest =>
      rw [List.getLast?_cons_cons] at hlast
      exact ih hrest hlast fun hnone => hdrive ((line.drive_eq_none_congr _ u s).mp hnone)

end

/-! ## The obligations -/

/-- Settles O52, by induction on the lines: the last wait leaves the engine idle, and a response given to the last line is
still held. -/
theorem runEndsFinal : Obligations.RunEndsFinal := by
  intro lines env env' s t h
  obtain ⟨hb, hv, hr, hlen⟩ := runLines_ends_idle h
  exact ⟨hb, hv, hr, hlen, fun line hlast hne hdrive => ⟨runLines_ends_with_response h hlast hne hdrive, hb, hv, hr⟩⟩

/-- Settles O53: the host waits before every line but reset, and after the last, and the wait at a stuck engine faults. -/
theorem stuckRunStops : Obligations.StuckRunStops := by
  intro env s hstuck
  have hawait := awaitIdle_of_stuck hstuck
  exact ⟨by simp only [runLines, hawait],
    fun line rest hne => by simp only [runLines, Line.await_of_ne_reset hne, hawait], fun rest => runLines_reset⟩

/-- Settles O54: the values of the names make the command, its word and its buffer; the idle engine is offered that word,
executes the command, and the line is bound to its result. -/
theorem linesRunInOrder : Obligations.LinesRunInOrder := by
  refine ⟨fun env j v h => by simp [Arg.value, h], fun env x y z a b c hx hy hz => ?_,
    fun env line rest s v i hb hcommand hdrive hwf hs => ?_, fun env line rest s hb h => runLines_of_drive_none hb h⟩
  · refine ⟨?_, ?_, ?_, ?_, fun xs vs hxs s => ?_⟩
    case refine_5 =>
      refine (Line.drive_eq_some_iff (line := .foldN x xs y) nofun).mpr
        ⟨_, Line.cmdWord_of_command ?_, serve vs s, ?_, rfl⟩
      · simp [Line.command, hx, hy]
      · simp [Line.serving, Arg.values_eq_some hxs]
    all_goals
      refine Line.cmdWord_of_command ?_
      simp [Line.command, hx, hy, hz]
  · have hne := Line.ne_reset_of_command hcommand
    have hoff := Line.drive_offers hne (Line.cmdWord_of_command hcommand) hdrive hb
    obtain ⟨u, hu⟩ := exec_of_serves hwf hs
    have hstep := (step_of_offers_command hoff (decode_encode i)).trans hu
    exact ⟨_, hu, by rw [runLines_of_drive_some hne hb hdrive hstep, response_respond]⟩

end Sys2Proof.Machine
end
